-- ==== Sys2Proof/Word.lean ====
section
/-! DEFINITION. The word, byte, block and command-word types of the ASCON CORE
(00_scope.md R5, R9; 10_state.md R24, R25; 30_encoding.md R70). -/

namespace Sys2Proof

/-- A 64-bit word; bit 0 is its least significant bit (00_scope.md R9). -/
abbrev Word := BitVec 64

/-- One byte of an operand or of the data-out register. -/
abbrev Byte := BitVec 8

/-- Sixteen bytes, numbered 0 to 15: the shape of `DIN[0..15]` and of `DOUT[0..15]` (R24, R25). -/
abbrev Block := Vector Byte 16

/-- A 32-bit command word `CW`; bit 0 is its least significant bit (30_encoding.md R71). -/
abbrev CmdWord := BitVec 32

/-- Sixteen zero bytes: a cleared data-out register (R24), and an operand no byte of which is written
(30_encoding.md R77). -/
def zeroBlock : Block := Vector.replicate 16 0#8

end Sys2Proof
end

