-- ==== Sys2Proof/Config.lean ====
section
/-! DEFINITION. What an implementation of the ASCON CORE fixes: the shape of the one record that holds
every constant the source names without printing (00_scope.md R6, R7), and the one open parameter,
the latency (00_scope.md R8, 70_reset_and_hazards.md R250). The record's VALUES are
`Machine.params` in Sys2Proof/Machine/Params.lean. -/

namespace Sys2Proof.Machine

/-- The state register file `S[0..4]`, five 64-bit words (10_state.md R20); `x0`..`x4` are the names of
40_permutation.md R94. -/
structure Sponge where
  x0 : Word
  x1 : Word
  x2 : Word
  x3 : Word
  x4 : Word
deriving DecidableEq, Repr

end Sys2Proof.Machine

namespace Sys2Proof

/-- The two variants (00_scope.md R2, R6): `v0` (rate 8 bytes, 6 data-phase rounds) and `v1`
(rate 16 bytes, 8 data-phase rounds). No third one exists. -/
inductive Variant where
  | v0
  | v1
deriving DecidableEq, Repr

/-- The parameters of one variant: `RATE` in bytes, `NB`, and the 64-bit constant `IV` (R6, R33). -/
structure VariantParams where
  rate   : Nat
  rounds : Nat
  iv     : Word
deriving DecidableEq, Repr

/-- The two rotation amounts of one state word in the linear layer (40_permutation.md R97). -/
structure Rotations where
  first  : Nat
  second : Nat
deriving DecidableEq, Repr

/-- The direction of the rotations of the linear layer (R97; 00_scope.md R7). -/
inductive RotateDir where
  | right
  | left
deriving DecidableEq, Repr

/-- Every constant of the algorithm, in one place for an auditor (00_scope.md R7): the variants with their IV values, the
full round count, the 5-bit S-box as the word formulas of 40_permutation.md R94 and as the table of R95, the ten rotation
amounts and the rotation direction (R97). The formulas define the substitution layer and the table describes it (R95). -/
structure Config where
  v0           : VariantParams
  v1           : VariantParams
  fullRounds   : Nat
  substitution : Machine.Sponge → Machine.Sponge
  sbox         : List Nat
  rotation     : RotateDir
  rot0         : Rotations
  rot1         : Rotations
  rot2         : Rotations
  rot3         : Rotations
  rot4         : Rotations

/-- `LAT(opc, VAR, NR)`, the latency of a command in clock cycles: an OPEN parameter (R8, R250), so a
constant without a body. It has no other argument, which is the law of R250 (DEDUCED, safe: assumption log 8). No
step reads it: the model has no notion of time. -/
opaque Config.lat (opc : Nat) (var : Variant) (nr : Nat) : Nat

end Sys2Proof
end

