-- ==== Sys2Proof/Syntax.lean ====
section
/-! DEFINITION. The commands of the ASCON CORE as data: one constructor per row of
spec/opcode_table.json (30_encoding.md R74), and the form in which the host presents one (R70). -/

namespace Sys2Proof

/-- The direction of a call (10_state.md R31): `sealing` is SEAL (0), `opening` is OPEN (1). -/
inductive Dir where
  | sealing
  | opening
deriving DecidableEq, Repr

/-- A decoded command: its fields and, where it consumes operand bytes, the sixteen bytes `DIN[0..15]` as
the host presented them (20_memory.md R57 says how many of them it consumes). `len` is `cw.LEN`, `nr` is
`cw.NR`, `idx` is `cw.IDX`, each the unsigned number of its field (30_encoding.md R72). -/
inductive Instr where
  | keyld (var : Variant) (din : Block)
  | init (dir : Dir) (din : Block)
  | ad (din : Block)
  | adl (len : Nat) (din : Block)
  | enc (din : Block)
  | encl (len : Nat) (din : Block)
  | dec (din : Block)
  | decl (len : Nat) (din : Block)
  | final
  | rdtag
  | verify (din : Block)
  | rawen
  | ldsw (idx : Nat) (din : Block)
  | rdsw (idx : Nat)
  | perm (nr : Nat)
deriving DecidableEq, Repr

/-- What the host presents at the command port (30_encoding.md R70): a command word and a sixteen-byte
operand. Every command has both, also one that ignores the operand. -/
structure Command where
  cw  : CmdWord
  din : Block
deriving DecidableEq, Repr

end Sys2Proof
end

