-- ==== Sys2Proof/WellFormed.lean ====
section
/-! DEFINITION. Which commands a command word can express: the number of each field fits the field's
width (30_encoding.md R71). The ranges a command ACCEPTS are narrower; those are checked when it
executes (R72) and are no part of this check. -/

namespace Sys2Proof

/-- `LEN` is 5 bits, `NR` 4 bits, `IDX` 3 bits; every other field is exact by its type (R71). -/
def Instr.wellFormed : Instr → Bool
  | .keyld _ _ => true
  | .init _ _ => true
  | .ad _ => true
  | .adl len _ => decide (len < 32)
  | .enc _ => true
  | .encl len _ => decide (len < 32)
  | .dec _ => true
  | .decl len _ => decide (len < 32)
  | .final => true
  | .rdtag => true
  | .verify _ => true
  | .rawen => true
  | .ldsw idx _ => decide (idx < 8)
  | .rdsw idx => decide (idx < 8)
  | .perm nr => decide (nr < 16)

end Sys2Proof
end

