-- ==== Sys2Proof/Decode.lean ====
section
/-! DEFINITION. Decoding a command word and its operand into a command, rejecting by name, and after it
the encoder (30_encoding.md R70 to R76). -/

namespace Sys2Proof

/-- Why a command word is no command (30_encoding.md R75; 60_exceptions.md R204). All three raise
`ILLEGAL_CMD` at the core: the core records the one cause, the decoder says which of R75's classes it is (DESIGN CHOICE, safe:
assumption log 9). -/
inductive DecodeError where
  /-- R75 (a): `OPC = 0`. -/
  | opcZero
  /-- R75 (b): a non-zero `ZERO` field. -/
  | zeroField
  /-- R75 (c): a non-zero field that the opcode does not use. -/
  | unusedField
deriving DecidableEq, Repr

/-! ### The fields of format C (R71) -/

/-- `OPC`, bits 3:0. -/
def cwOpc (cw : CmdWord) : Nat := (cw.extractLsb' 0 4).toNat

/-- `LEN`, bits 8:4. -/
def cwLen (cw : CmdWord) : Nat := (cw.extractLsb' 4 5).toNat

/-- `VAR`, bit 9. -/
def cwVar (cw : CmdWord) : Variant := if cw.getLsbD 9 then .v1 else .v0

/-- `DIR`, bit 10. -/
def cwDir (cw : CmdWord) : Dir := if cw.getLsbD 10 then .opening else .sealing

/-- `NR`, bits 14:11. -/
def cwNr (cw : CmdWord) : Nat := (cw.extractLsb' 11 4).toNat

/-- `IDX`, bits 17:15. -/
def cwIdx (cw : CmdWord) : Nat := (cw.extractLsb' 15 3).toNat

/-- `ZERO`, bits 31:18. -/
def cwZero (cw : CmdWord) : Nat := (cw.extractLsb' 18 14).toNat

/-! ### The opcode map (R74) -/

/-- A row of the opcode map: a word is this row's command exactly when `CW & mask = pattern` (R73; `pattern`
is the table's `match`), and `build` assembles the command from its fields and operand. -/
structure Row where
  mnemonic : String
  pattern  : CmdWord
  mask     : CmdWord
  build    : CmdWord → Block → Instr

/-- R73: `CW & mask = match`. -/
def Row.accepts (r : Row) (cw : CmdWord) : Bool := cw &&& r.mask == r.pattern

/-- The fifteen rows of R74, in its order. -/
def opcodeRows : List Row :=
  [ ⟨"KEYLD",  0x00000001#32, 0xFFFFFDFF#32, fun cw din => .keyld (cwVar cw) din⟩,
    ⟨"INIT",   0x00000002#32, 0xFFFFFBFF#32, fun cw din => .init (cwDir cw) din⟩,
    ⟨"AD",     0x00000003#32, 0xFFFFFFFF#32, fun _ din => .ad din⟩,
    ⟨"ADL",    0x00000004#32, 0xFFFFFE0F#32, fun cw din => .adl (cwLen cw) din⟩,
    ⟨"ENC",    0x00000005#32, 0xFFFFFFFF#32, fun _ din => .enc din⟩,
    ⟨"ENCL",   0x00000006#32, 0xFFFFFE0F#32, fun cw din => .encl (cwLen cw) din⟩,
    ⟨"DEC",    0x00000007#32, 0xFFFFFFFF#32, fun _ din => .dec din⟩,
    ⟨"DECL",   0x00000008#32, 0xFFFFFE0F#32, fun cw din => .decl (cwLen cw) din⟩,
    ⟨"FINAL",  0x00000009#32, 0xFFFFFFFF#32, fun _ _ => .final⟩,
    ⟨"RDTAG",  0x0000000A#32, 0xFFFFFFFF#32, fun _ _ => .rdtag⟩,
    ⟨"VERIFY", 0x0000000B#32, 0xFFFFFFFF#32, fun _ din => .verify din⟩,
    ⟨"RAWEN",  0x0000000C#32, 0xFFFFFFFF#32, fun _ _ => .rawen⟩,
    ⟨"LDSW",   0x0000000D#32, 0xFFFC7FFF#32, fun cw din => .ldsw (cwIdx cw) din⟩,
    ⟨"RDSW",   0x0000000E#32, 0xFFFC7FFF#32, fun cw _ => .rdsw (cwIdx cw)⟩,
    ⟨"PERM",   0x0000000F#32, 0xFFFF87FF#32, fun cw _ => .perm (cwNr cw)⟩ ]

/-- Which class of R75 a word that matches no row belongs to. -/
def rejectReason (cw : CmdWord) : DecodeError :=
  if cwOpc cw = 0 then .opcZero else if cwZero cw ≠ 0 then .zeroField else .unusedField

/-- The command a presented word and operand stand for (R73): total, and a function of `CW` alone but for
the operand bytes it hands on. -/
def decode (c : Command) : Except DecodeError Instr :=
  match opcodeRows.find? (fun r => r.accepts c.cw) with
  | some r => .ok (r.build c.cw c.din)
  | none => .error (rejectReason c.cw)

/-! ### The encoder (R71) -/

/-- `CW = OPC | LEN<<4 | VAR<<9 | DIR<<10 | NR<<11 | IDX<<15` (R71). -/
def packCw (opc len var dir nr idx : Nat) : CmdWord :=
  BitVec.ofNat 32
    (opc ||| len <<< 4 ||| var <<< 9 ||| dir <<< 10 ||| nr <<< 11 ||| idx <<< 15)

/-- The bit of `VAR` (00_scope.md R6, 10_state.md R30). -/
def variantBit : Variant → Nat
  | .v0 => 0
  | .v1 => 1

/-- The bit of `DIR` (10_state.md R31). -/
def dirBit : Dir → Nat
  | .sealing => 0
  | .opening => 1

/-- The presented form of a command (R71, R74). -/
def encode : Instr → Command
  | .keyld var din => ⟨packCw 0x1 0 (variantBit var) 0 0 0, din⟩
  | .init dir din => ⟨packCw 0x2 0 0 (dirBit dir) 0 0, din⟩
  | .ad din => ⟨packCw 0x3 0 0 0 0 0, din⟩
  | .adl len din => ⟨packCw 0x4 len 0 0 0 0, din⟩
  | .enc din => ⟨packCw 0x5 0 0 0 0 0, din⟩
  | .encl len din => ⟨packCw 0x6 len 0 0 0 0, din⟩
  | .dec din => ⟨packCw 0x7 0 0 0 0 0, din⟩
  | .decl len din => ⟨packCw 0x8 len 0 0 0 0, din⟩
  | .final => ⟨packCw 0x9 0 0 0 0 0, zeroBlock⟩
  | .rdtag => ⟨packCw 0xA 0 0 0 0 0, zeroBlock⟩
  | .verify din => ⟨packCw 0xB 0 0 0 0 0, din⟩
  | .rawen => ⟨packCw 0xC 0 0 0 0 0, zeroBlock⟩
  | .ldsw idx din => ⟨packCw 0xD 0 0 0 0 idx, din⟩
  | .rdsw idx => ⟨packCw 0xE 0 0 0 0 idx, zeroBlock⟩
  | .perm nr => ⟨packCw 0xF 0 0 0 nr 0, zeroBlock⟩

/-! ### A command from one number -/

/-- The presented command whose bits are the low `nbits` bits of `w`: bits 31..0 are `CW`, and operand byte
`DIN[k]` is bits `39+8k .. 32+8k` (DESIGN CHOICE, safe: assumption log 3). -/
def tableCommand (nbits w : Nat) : Command :=
  { cw := BitVec.ofNat 32 (w % 2 ^ nbits),
    din := Vector.ofFn (fun k : Fin 16 => BitVec.ofNat 8 ((w % 2 ^ nbits) >>> (32 + 8 * k.val))) }

/-- What the decoder reads from the `nbits` low bits of `w`, every bit above them zero. -/
def decodeTableWord (nbits w : Nat) : Option Instr :=
  match decode (tableCommand nbits w) with
  | .ok i => some i
  | .error _ => none

/-- The mnemonic of a command, as R74 writes it. -/
def Instr.mnemonic : Instr → String
  | .keyld _ _ => "KEYLD"
  | .init _ _ => "INIT"
  | .ad _ => "AD"
  | .adl _ _ => "ADL"
  | .enc _ => "ENC"
  | .encl _ _ => "ENCL"
  | .dec _ => "DEC"
  | .decl _ _ => "DECL"
  | .final => "FINAL"
  | .rdtag => "RDTAG"
  | .verify _ => "VERIFY"
  | .rawen => "RAWEN"
  | .ldsw _ _ => "LDSW"
  | .rdsw _ => "RDSW"
  | .perm _ => "PERM"

/-- The opcode number of a command (R74). -/
def Instr.opc : Instr → Nat
  | .keyld _ _ => 0x1
  | .init _ _ => 0x2
  | .ad _ => 0x3
  | .adl _ _ => 0x4
  | .enc _ => 0x5
  | .encl _ _ => 0x6
  | .dec _ => 0x7
  | .decl _ _ => 0x8
  | .final => 0x9
  | .rdtag => 0xA
  | .verify _ => 0xB
  | .rawen => 0xC
  | .ldsw _ _ => 0xD
  | .rdsw _ => 0xE
  | .perm _ => 0xF

/-- `cw.NR` of a command: the round count for PERM, 0 for the others, whose field must be zero (R73). -/
def Instr.nrField : Instr → Nat
  | .perm nr => nr
  | _ => 0

end Sys2Proof
end

