-- ==== Sys2Proof/Machine/Params.lean ====
section
/-! DEFINITION. The values of the algorithm's constants, in the one record an auditor compares with the published
ASCON v1.2 specification (00_scope.md R6, R7; 93_implementation_defined.md G1, G2, G3, G7; PRESUMED by the spec,
unsafe: assumption log 7). -/

namespace Sys2Proof.Machine

/-- Variant V0: rate 8 bytes, 6 data-phase rounds, `IV(0)` (00_scope.md R6, 10_state.md R33). -/
def paramsV0 : VariantParams := { rate := 8, rounds := 6, iv := 0x80400C0600000000#64 }

/-- Variant V1: rate 16 bytes, 8 data-phase rounds, `IV(1)` (00_scope.md R6, 10_state.md R33). -/
def paramsV1 : VariantParams := { rate := 16, rounds := 8, iv := 0x80800C0800000000#64 }

/-- The substitution layer as word formulas, line by line as 40_permutation.md R94 has them. -/
def substitutionFormulas (S : Sponge) : Sponge :=
  let x0 := S.x0 ^^^ S.x4
  let x4 := S.x4 ^^^ S.x3
  let x2 := S.x2 ^^^ S.x1
  let x1 := S.x1
  let x3 := S.x3
  let t0 := ~~~x0 &&& x1
  let t1 := ~~~x1 &&& x2
  let t2 := ~~~x2 &&& x3
  let t3 := ~~~x3 &&& x4
  let t4 := ~~~x4 &&& x0
  let x0 := x0 ^^^ t1
  let x1 := x1 ^^^ t2
  let x2 := x2 ^^^ t3
  let x3 := x3 ^^^ t4
  let x4 := x4 ^^^ t0
  let x1 := x1 ^^^ x0
  let x0 := x0 ^^^ x4
  let x3 := x3 ^^^ x2
  let x2 := ~~~x2
  ⟨x0, x1, x2, x3, x4⟩

/-- The S-box as the 32-entry table of 40_permutation.md R95. -/
def sboxValues : List Nat :=
  [0x04, 0x0b, 0x1f, 0x14, 0x1a, 0x15, 0x09, 0x02, 0x1b, 0x05, 0x08, 0x12, 0x1d, 0x03, 0x06, 0x1c,
   0x1e, 0x13, 0x07, 0x0e, 0x00, 0x0d, 0x11, 0x18, 0x10, 0x0c, 0x01, 0x19, 0x16, 0x0a, 0x0f, 0x17]

/-- All constants: the variants, `NA = 12` (R5), the S-box (R94, R95), the rotation direction and the ten amounts (R97). -/
def params : Config where
  v0           := paramsV0
  v1           := paramsV1
  fullRounds   := 12
  substitution := substitutionFormulas
  sbox         := sboxValues
  rotation     := .right
  rot0         := ⟨19, 28⟩
  rot1         := ⟨61, 39⟩
  rot2         := ⟨1, 6⟩
  rot3         := ⟨10, 17⟩
  rot4         := ⟨7, 41⟩

/-- The parameters the register `VAR` selects (R6). -/
def paramsOf : Variant → VariantParams
  | .v0 => params.v0
  | .v1 => params.v1

/-- `RATE(VAR)`, in bytes. -/
def rate (v : Variant) : Nat := (paramsOf v).rate

/-- `NB(VAR)`, the rounds of the data-phase permutation. -/
def nb (v : Variant) : Nat := (paramsOf v).rounds

/-- `IV(VAR)`, the initialization constant (10_state.md R33). -/
def iv (v : Variant) : Word := (paramsOf v).iv

/-- `NA`, the rounds of the initialization and finalization permutation (R5). -/
def na : Nat := params.fullRounds

/-- `RW(VAR) = RATE/8`, the rate in words (R6). -/
def rw (v : Variant) : Nat := rate v / 8

end Sys2Proof.Machine
end

