-- ==== Sys2Proof/Machine/State.lean ====
section
/-! DEFINITION. The architectural state of the ASCON CORE as plain data (10_state.md; its five-word type `Sponge` stands in
Sys2Proof/Config.lean, where the record of constants needs it), the host's pending port events, the two ways a step could stop,
and the state after reset (R42). -/

namespace Sys2Proof.Machine

/-- The key register `K[0..1]`, two 64-bit words (10_state.md R22). -/
structure KeyReg where
  k0 : Word
  k1 : Word
deriving DecidableEq, Repr

/-- The phases of the duplex state machine (10_state.md R34). -/
inductive Phase where
  | uninit
  | initialized
  | absorbAd
  | procData
  | finalized
  | dataDone
  | raw
  | fault
deriving DecidableEq, Repr

/-- The result of the last tag verification (10_state.md R29); the value 3 has no constructor
(93_implementation_defined.md U13). -/
inductive Verdict where
  | none
  | pass
  | fail
deriving DecidableEq, Repr

/-- The fault cause recorded in `ERR` (60_exceptions.md R201); codes 7 to 15 have no constructor (U13). -/
inductive Cause where
  | none
  | illegalCmd
  | badPhase
  | noKey
  | badLen
  | badRounds
  | badIndex
deriving DecidableEq, Repr

/-- One thing the host does at the port (20_memory.md R50, 70_reset_and_hazards.md R230, R231): present a
command, or assert RST. Observing ST or DOUT is no event, having no effect (R59). -/
inductive PortEvent where
  | command (c : Command)
  | rst
deriving DecidableEq, Repr

/-- Every register of R42's table, and `port`: the model's own field, the events the host has yet to put to the
core, in issue order (20_memory.md R62, 45_sequences.md R193; DESIGN CHOICE, safe: assumption log 1). -/
structure State where
  S        : Sponge
  K        : KeyReg
  keyed    : Bool
  var      : Variant
  dir      : Dir
  phase    : Phase
  tagValid : Bool
  verdict  : Verdict
  err      : Cause
  dout     : Block
  doutLen  : Nat
  port     : List PortEvent
deriving DecidableEq, Repr

/-- How a step could stop the MODEL: in no way. The core's own faults (60_exceptions.md R201) are not
stops: each is a next state, in phase FAULT (R210), and a command there is a next state too (R212); "There is no
behaviour in this spec that a model should treat as `stuck`" (93_implementation_defined.md). So the type has no
constructor: no one raises a fault (safe: nothing is stopped). DEDUCED, assumption log 4. -/
inductive Fault
deriving DecidableEq, Repr

/-- How the model could refuse an instruction. -/
inductive Refusal where
  /-- Raised only by an arm of `exec` for an instruction without a meaning (safe: nothing is claimed of it). Every
  instruction of this model has its meaning, so no arm raises it. -/
  | notModelled (mnemonic : String)
deriving DecidableEq, Repr

/-- All five words zero. -/
def Sponge.zero : Sponge := ⟨0#64, 0#64, 0#64, 0#64, 0#64⟩

/-- The reset value of every register (10_state.md R42), with no event pending at the port. -/
def State.reset : State where
  S        := Sponge.zero
  K        := ⟨0#64, 0#64⟩
  keyed    := false
  var      := .v0
  dir      := .sealing
  phase    := .uninit
  tagValid := false
  verdict  := .none
  err      := .none
  dout     := zeroBlock
  doutLen  := 0
  port     := []

end Sys2Proof.Machine
end

