-- ==== Sys2Proof/Machine/Operands.lean ====
section
/-! DEFINITION. The operand forms: bytes and words, the rate portion of the state, padding, the placing of keys,
nonces, tags and raw words (00_scope.md R9, R11; 20_memory.md R51 to R54). Byte order is decided here and nowhere else. -/

namespace Sys2Proof.Machine

/-! ### Bytes and words (R9, R51) -/

/-- `be64(b0..b7)`: the word whose most significant byte is the first byte of the string; it reads the
string's first eight bytes (R9, R51). -/
def be64 (b : List Byte) : Word :=
  b.getD 0 0 ++ b.getD 1 0 ++ b.getD 2 0 ++ b.getD 3 0 ++ b.getD 4 0 ++ b.getD 5 0 ++ b.getD 6 0 ++ b.getD 7 0

/-- `bytes_be(w)`: the eight bytes of a word, the most significant first (R9). -/
def bytesBe (w : Word) : List Byte :=
  [ w.extractLsb' 56 8, w.extractLsb' 48 8, w.extractLsb' 40 8, w.extractLsb' 32 8,
    w.extractLsb' 24 8, w.extractLsb' 16 8, w.extractLsb' 8 8, w.extractLsb' 0 8 ]

/-- Two byte strings of one length, byte by byte. -/
def xorBytes (a b : List Byte) : List Byte := List.zipWith (· ^^^ ·) a b

/-- `DIN[0 .. n-1]`, the first `n` operand bytes (00_scope.md R10; 20_memory.md R57). -/
def firstBytes (din : Block) (n : Nat) : List Byte := din.toList.take n

/-- The sixteen bytes that begin with the string `b` and go on with zeros (10_state.md R24). -/
def blockOf (b : List Byte) : Block := Vector.ofFn (fun k : Fin 16 => b.getD k.val 0)

/-- `be64(DIN[0..7])` (R53). -/
def word0 (din : Block) : Word := be64 din.toList

/-- `be64(DIN[8..15])` (R53). -/
def word1 (din : Block) : Word := be64 (din.toList.drop 8)

/-! ### State words by index (10_state.md R20) -/

/-- `S[i]`. There is no word beyond `S[4]`; no meaning asks for one (R208; DESIGN CHOICE, safe: assumption
log 14). -/
def Sponge.get (S : Sponge) (i : Nat) : Word :=
  match i with
  | 0 => S.x0
  | 1 => S.x1
  | 2 => S.x2
  | 3 => S.x3
  | 4 => S.x4
  | _ => 0#64

/-- `S[i] <- w`, the other words unchanged; nothing beyond `S[4]`. -/
def Sponge.set (S : Sponge) (i : Nat) (w : Word) : Sponge :=
  match i with
  | 0 => { S with x0 := w }
  | 1 => { S with x1 := w }
  | 2 => { S with x2 := w }
  | 3 => { S with x3 := w }
  | 4 => { S with x4 := w }
  | _ => S

/-! ### The rate portion (R11, R52) -/

/-- `rate_bytes()`: the rate portion of the state as bytes, `S[0]` for V0, `S[0] ‖ S[1]` for V1 (R11). -/
def rateBytes (v : Variant) (S : Sponge) : List Byte :=
  match v with
  | .v0 => bytesBe S.x0
  | .v1 => bytesBe S.x0 ++ bytesBe S.x1

/-- `set_rate_bytes(b)`: the rate portion becomes the block `b` of `RATE(VAR)` bytes (R11). -/
def setRateBytes (v : Variant) (b : List Byte) (S : Sponge) : Sponge :=
  match v with
  | .v0 => { S with x0 := be64 b }
  | .v1 => { S with x0 := be64 b, x1 := be64 (b.drop 8) }

/-- `xor_rate(b)`: the block `b` of `RATE(VAR)` bytes is XORed into the rate portion (R11). -/
def xorRate (v : Variant) (b : List Byte) (S : Sponge) : Sponge :=
  match v with
  | .v0 => { S with x0 := S.x0 ^^^ be64 b }
  | .v1 => { S with x0 := S.x0 ^^^ be64 b, x1 := S.x1 ^^^ be64 (b.drop 8) }

/-- `pad(m) = m ‖ 0x80 ‖ 0x00^(RATE-L-1)` for a string of length `L < RATE(VAR)` (R11, R54). -/
def pad (v : Variant) (m : List Byte) : List Byte :=
  m ++ 0x80#8 :: List.replicate (rate v - m.length - 1) 0#8

/-- The rate portion DECL leaves (43_data.md R147): the received bytes, then the old byte after them with `0x80` XORed
in, then the old bytes. -/
def overwritePadded (received old : List Byte) : List Byte :=
  received ++ (old.getD received.length 0 ^^^ 0x80#8) :: old.drop (received.length + 1)

/-! ### Key, nonce, tag, domain separation -/

/-- `K` from the sixteen key bytes (R53). -/
def keyOf (din : Block) : KeyReg := ⟨word0 din, word1 din⟩

/-- The initial state `IV‖K‖N` (41_key_init.md R121). -/
def initialSponge (v : Variant) (k : KeyReg) (nonce : Block) : Sponge :=
  ⟨iv v, k.k0, k.k1, word0 nonce, word1 nonce⟩

/-- `S[3] <- S[3] ^ K[0];  S[4] <- S[4] ^ K[1]` (R122, R160). -/
def xorKeyLast (k : KeyReg) (S : Sponge) : Sponge :=
  { S with x3 := S.x3 ^^^ k.k0, x4 := S.x4 ^^^ k.k1 }

/-- `S[j] <- S[j] ^ K[0];  S[j+1] <- S[j+1] ^ K[1]` with `j = RW(VAR)`, the first capacity word (44_final_tag.md
R160, R161). -/
def xorKeyAfterRate (v : Variant) (k : KeyReg) (S : Sponge) : Sponge :=
  (S.set (rw v) (S.get (rw v) ^^^ k.k0)).set (rw v + 1) (S.get (rw v + 1) ^^^ k.k1)

/-- `S[4] <- S[4] ^ 1` (42_assoc_data.md R134). -/
def domainSeparate (S : Sponge) : Sponge := { S with x4 := S.x4 ^^^ 1#64 }

/-- `T[0..15] = bytes_be(S[3]) ‖ bytes_be(S[4])` (10_state.md R40). -/
def tagBytes (S : Sponge) : List Byte := bytesBe S.x3 ++ bytesBe S.x4

end Sys2Proof.Machine
end

