-- ==== Sys2Proof/Machine/Engine.lean ====
section
/-! DEFINITION. The permutation engine: a pure function on the five state words (40_permutation.md R90 to R100;
10_state.md R27). -/

namespace Sys2Proof.Machine

/-- `ror64(x, n)` for `0 < n < 64` (00_scope.md R9). -/
def ror64 (x : Word) (n : Nat) : Word := (x >>> n) ||| (x <<< (64 - n))

/-- A rotation by `n`, `0 < n < 64`, in the direction given; to the left is to the right by `64 - n` (R9, R97). -/
def rotate (dir : RotateDir) (x : Word) (n : Nat) : Word :=
  match dir with
  | .right => ror64 x n
  | .left => ror64 x (64 - n)

/-- `C_i = ((0xF - i) << 4) | i`, as 64 bits, for `i <= 11` (R92). -/
def roundConstant (i : Nat) : Word := BitVec.ofNat 64 ((0xF - i) <<< 4 ||| i)

/-- Constant addition: `S[2] <- S[2] ^ zext_64(C_i)` (R93). -/
def addConstant (i : Nat) (S : Sponge) : Sponge := { S with x2 := S.x2 ^^^ roundConstant i }

/-- The substitution layer: the word formulas of the record (R94). -/
def substitute (S : Sponge) : Sponge := params.substitution S

/-- One word of the linear layer: the word XORed with two rotations of itself, in the record's direction (R97). -/
def diffuseWord (r : Rotations) (x : Word) : Word :=
  x ^^^ rotate params.rotation x r.first ^^^ rotate params.rotation x r.second

/-- The linear diffusion layer: each word from its own old value (R97). -/
def diffuse (S : Sponge) : Sponge :=
  ⟨diffuseWord params.rot0 S.x0, diffuseWord params.rot1 S.x1, diffuseWord params.rot2 S.x2,
    diffuseWord params.rot3 S.x3, diffuseWord params.rot4 S.x4⟩

/-- `round(i)` (R91, R98). -/
def round (i : Nat) (S : Sponge) : Sponge := diffuse (substitute (addConstant i S))

/-- Rounds with the indices listed, in that order. -/
def rounds (indices : List Nat) (S : Sponge) : Sponge := indices.foldl (fun S i => round i S) S

/-- The round indices of an `n`-round permutation: `12-n, ..., 11` (R99). -/
def roundIndices (n : Nat) : List Nat := List.range' (na - n) n

/-- `permute(n)`, for `n <= 12` (R99). -/
def permute (n : Nat) (S : Sponge) : Sponge := rounds (roundIndices n) S

/-- The S-box as a table, indexed by the column value (R95): the record's description of the substitution layer. -/
def sboxTable : List Nat := params.sbox

/-- Bit-column `j` of the state: `S[0][j]*16 + S[1][j]*8 + S[2][j]*4 + S[3][j]*2 + S[4][j]` (R95). -/
def column (S : Sponge) (j : Nat) : Nat :=
  (S.x0.getLsbD j).toNat * 16 + (S.x1.getLsbD j).toNat * 8 + (S.x2.getLsbD j).toNat * 4 +
    (S.x3.getLsbD j).toNat * 2 + (S.x4.getLsbD j).toNat

end Sys2Proof.Machine
end

