-- ==== Sys2Proof/Machine/Flags.lean ====
section
/-! DEFINITION. The flag computations: the tag comparison (44_final_tag.md R166), the register encodings and the
status word `ST` (10_state.md R29 to R34, R41). -/

namespace Sys2Proof.Machine

/-- The OR over all bytes of the XOR of two strings (R166): every byte is looked at, whatever the others are (R168). -/
def tagDiff (computed received : List Byte) : Byte :=
  (xorBytes computed received).foldl (· ||| ·) 0#8

/-- The verdict of VERIFY (R166): PASS when the difference is 0, FAIL otherwise. -/
def verdictOf (computed received : List Byte) : Verdict :=
  if tagDiff computed received = 0#8 then .pass else .fail

/-- The encoding of `PHASE` (R34). -/
def Phase.code : Phase → Nat
  | .uninit => 0
  | .initialized => 1
  | .absorbAd => 2
  | .procData => 3
  | .finalized => 4
  | .dataDone => 5
  | .raw => 6
  | .fault => 7

/-- The encoding of `VERDICT` (R29). -/
def Verdict.code : Verdict → Nat
  | .none => 0
  | .pass => 1
  | .fail => 2

/-- The code of a fault cause (60_exceptions.md R201). -/
def Cause.code : Cause → Nat
  | .none => 0
  | .illegalCmd => 1
  | .badPhase => 2
  | .noKey => 3
  | .badLen => 4
  | .badRounds => 5
  | .badIndex => 6

/-- The encoding of `VAR` (R30). -/
def varCode : Variant → Nat
  | .v0 => 0
  | .v1 => 1

/-- The encoding of `DIR` (R31). -/
def dirCode : Dir → Nat
  | .sealing => 0
  | .opening => 1

/-- `ST = PHASE | KEYED<<3 | VAR<<4 | DIR<<5 | TAGVALID<<6 | VERDICT<<7 | ERR<<9 | DOUTLEN<<13` (R41), a pure
function of the registers. -/
def State.st (s : State) : BitVec 32 :=
  BitVec.ofNat 32
    (s.phase.code ||| s.keyed.toNat <<< 3 ||| varCode s.var <<< 4 ||| dirCode s.dir <<< 5 |||
      s.tagValid.toNat <<< 6 ||| s.verdict.code <<< 7 ||| s.err.code <<< 9 ||| s.doutLen <<< 13)

/-- `DOUT[0 .. DOUTLEN-1]`, what the host takes after a command (R24; 70_reset_and_hazards.md R244). -/
def State.doutBytes (s : State) : List Byte := s.dout.toList.take s.doutLen

end Sys2Proof.Machine
end

