-- ==== Sys2Proof/Machine/Ops.lean ====
section
/-! DEFINITION. The operations every command shares: writing the data-out register, taking a fault (the core's one
exception, 60_exceptions.md R210), reset (70_reset_and_hazards.md R230), the order of checks (R203), and taking the next
event from the port. There is no return from a fault but reset (R212, R219). -/

namespace Sys2Proof.Machine

/-! ### The data-out register (10_state.md R24) -/

/-- `DOUT` holds the bytes produced, then zeros; `DOUTLEN` is their number (R24). -/
def State.putDout (s : State) (b : List Byte) : State :=
  { s with dout := blockOf b, doutLen := b.length }

/-- `DOUT[0..15] <- 0;  DOUTLEN <- 0`: a command that produces no data (R24). -/
def State.clearDout (s : State) : State := { s with dout := zeroBlock, doutLen := 0 }

/-! ### Fault entry and reset -/

/-- `raise Fault(cause)` (R210): every register takes its reset value but `ERR`, which holds the cause, and `PHASE`,
which is FAULT. The port's later events are still to come. -/
def State.raise (s : State) (cause : Cause) : State :=
  { State.reset with err := cause, phase := .fault, port := s.port }

/-- The reset event RST (R230): every register takes its reset value, in every phase. -/
def State.takeReset (s : State) : State := { State.reset with port := s.port }

/-! ### The order of checks (R203) -/

/-- One check of a command: whether it holds, and the cause recorded when it does not. -/
structure Check where
  ok    : Bool
  cause : Cause
deriving DecidableEq, Repr

/-- The cause of the first check that fails; later checks are not made (R203). -/
def firstFailure : List Check → Option Cause
  | [] => none
  | c :: cs => if c.ok then firstFailure cs else some c.cause

/-- The phase is one of those listed, else `BAD_PHASE` (R205). -/
def State.checkPhase (s : State) (legal : List Phase) : Check := ⟨decide (s.phase ∈ legal), .badPhase⟩

/-- The direction of the call is `d`, else `BAD_PHASE` (R205). -/
def State.checkDir (s : State) (d : Dir) : Check := ⟨decide (s.dir = d), .badPhase⟩

/-- `TAGVALID = 1`, else `BAD_PHASE` (R205). -/
def State.checkTag (s : State) : Check := ⟨s.tagValid, .badPhase⟩

/-- `KEYED = 1`, else `NO_KEY` (R209). -/
def State.checkKeyed (s : State) : Check := ⟨s.keyed, .noKey⟩

/-- `LEN < RATE(VAR)`, else `BAD_LEN` (R206). -/
def State.checkLen (s : State) (len : Nat) : Check := ⟨decide (len < rate s.var), .badLen⟩

/-- `NR <= 12`, else `BAD_ROUNDS` (R207). -/
def checkRounds (nr : Nat) : Check := ⟨decide (nr ≤ na), .badRounds⟩

/-- `IDX <= 4`, else `BAD_INDEX` (R208). -/
def checkIndex (idx : Nat) : Check := ⟨decide (idx ≤ 4), .badIndex⟩

/-- The idle phases (10_state.md R36; 00_scope.md, glossary). -/
def idlePhases : List Phase := [.uninit, .finalized, .raw]

/-- One command as an indivisible transition (20_memory.md R58): in phase FAULT it has no effect at all (R212); else
the first failing check is the fault it raises, with none of its writes performed (R203, R210); else the state is
`after`. -/
def State.runCommand (s : State) (checks : List Check) (after : State) :
    Host.Outcome State Fault Refusal :=
  if s.phase = .fault then .next s
  else
    match firstFailure checks with
    | some cause => .next (s.raise cause)
    | none => .next after

/-- A word that matches no row of the opcode map (R204, R75): `ILLEGAL_CMD` in every phase but FAULT, where it has
no effect (R212). -/
def State.illegalCommand (s : State) : State := if s.phase = .fault then s else s.raise .illegalCmd

/-! ### The port (R62, R193) -/

/-- The next event at the port, if the host has presented one, and the state with that event taken from the port. -/
def State.accept (s : State) : Option (PortEvent × State) :=
  match s.port with
  | [] => none
  | e :: rest => some (e, { s with port := rest })

/-- The state with one more command presented, ahead of every event still pending. -/
def State.present (s : State) (c : Command) : State := { s with port := .command c :: s.port }

end Sys2Proof.Machine
end

