-- ==== Sys2Proof/Machine/AssocData.lean ====
section
/-! DEFINITION. Associated-data absorption and domain separation: AD, ADL (42_assoc_data.md R131 to R135). -/

namespace Sys2Proof.Machine

/-- An empty AD is expressed by no AD command at all: `ADL 0` straight after INIT is `BAD_LEN` (R133, R135). -/
def State.checkAdNotEmpty (s : State) (len : Nat) : Check :=
  ⟨decide (s.phase = .initialized → 1 ≤ len), .badLen⟩

/-- AD: absorb one full block (R131). -/
def execAd (din : Block) (s : State) : Host.Outcome State Fault Refusal :=
  s.runCommand [s.checkPhase [.initialized, .absorbAd]]
    { s.clearDout with
      S := permute (nb s.var) (xorRate s.var (firstBytes din (rate s.var)) s.S)
      phase := .absorbAd }

/-- ADL: absorb the final, padded block, permute, and apply the domain-separation bit (R133, R134; 90_conflicts.md C2). -/
def execAdl (len : Nat) (din : Block) (s : State) : Host.Outcome State Fault Refusal :=
  s.runCommand [s.checkPhase [.initialized, .absorbAd], s.checkLen len, s.checkAdNotEmpty len]
    { s.clearDout with
      S := domainSeparate (permute (nb s.var) (xorRate s.var (pad s.var (firstBytes din len)) s.S))
      phase := .procData }

end Sys2Proof.Machine
end

