-- ==== Sys2Proof/Machine/Data.lean ====
section
/-! DEFINITION. Plaintext and ciphertext processing: ENC, ENCL, DEC, DECL (43_data.md R140 to R149). -/

namespace Sys2Proof.Machine

/-- `data_entry()`: in phase INITIALIZED, where no ADL has run, the domain-separation bit is applied first; in
PROC_DATA nothing is done (R140). -/
def State.dataEntry (s : State) : Sponge :=
  if s.phase = .initialized then domainSeparate s.S else s.S

/-- The phases a data command is legal in (R140). -/
def dataPhases : List Phase := [.initialized, .procData]

/-- ENC: encrypt one full block; the ciphertext is the rate portion after the XOR and before the permutation (R141). -/
def execEnc (din : Block) (s : State) : Host.Outcome State Fault Refusal :=
  let absorbed := xorRate s.var (firstBytes din (rate s.var)) s.dataEntry
  s.runCommand [s.checkPhase dataPhases, s.checkDir .sealing]
    { s.putDout (rateBytes s.var absorbed) with
      S := permute (nb s.var) absorbed
      phase := .procData }

/-- ENCL: encrypt the final, padded block; the first `LEN` bytes of the rate portion are the ciphertext, and no
permutation follows (R143). -/
def execEncl (len : Nat) (din : Block) (s : State) : Host.Outcome State Fault Refusal :=
  let absorbed := xorRate s.var (pad s.var (firstBytes din len)) s.dataEntry
  s.runCommand [s.checkPhase dataPhases, s.checkDir .sealing, s.checkLen len]
    { s.putDout ((rateBytes s.var absorbed).take len) with
      S := absorbed
      phase := .dataDone }

/-- DEC: decrypt one full block; the plaintext is the ciphertext XORed with the old rate portion, which the
ciphertext then replaces (R145). -/
def execDec (din : Block) (s : State) : Host.Outcome State Fault Refusal :=
  let received := firstBytes din (rate s.var)
  s.runCommand [s.checkPhase dataPhases, s.checkDir .opening]
    { s.putDout (xorBytes received (rateBytes s.var s.dataEntry)) with
      S := permute (nb s.var) (setRateBytes s.var received s.dataEntry)
      phase := .procData }

/-- DECL: decrypt the final, partial block; the received bytes replace the first `LEN` rate bytes, `0x80` is XORed into
the next, and no permutation follows (R147). -/
def execDecl (len : Nat) (din : Block) (s : State) : Host.Outcome State Fault Refusal :=
  let received := firstBytes din len
  let old := rateBytes s.var s.dataEntry
  s.runCommand [s.checkPhase dataPhases, s.checkDir .opening, s.checkLen len]
    { s.putDout (xorBytes received old) with
      S := setRateBytes s.var (overwritePadded received old) s.dataEntry
      phase := .dataDone }

end Sys2Proof.Machine
end

