-- ==== Sys2Proof/Machine/FinalTag.lean ====
section
/-! DEFINITION. Finalization, tag read-out and constant-time verification: FINAL, RDTAG, VERIFY (44_final_tag.md R160 to
R168). -/

namespace Sys2Proof.Machine

/-- FINAL: the key into the two words after the rate, 12 rounds, the key into the last two words, which then hold the
tag (R160, R161). -/
def execFinal (s : State) : Host.Outcome State Fault Refusal :=
  s.runCommand [s.checkPhase [.dataDone]]
    { s.clearDout with
      S := xorKeyLast s.K (permute na (xorKeyAfterRate s.var s.K s.S))
      tagValid := true
      phase := .finalized }

/-- RDTAG: the tag of a seal call, and no other register changes (R163). -/
def execRdtag (s : State) : Host.Outcome State Fault Refusal :=
  s.runCommand [s.checkPhase [.finalized], s.checkTag, s.checkDir .sealing] (s.putDout (tagBytes s.S))

/-- VERIFY: compare the computed with the received tag, then clear the state; the phase stays FINALIZED (R166). -/
def execVerify (din : Block) (s : State) : Host.Outcome State Fault Refusal :=
  s.runCommand [s.checkPhase [.finalized], s.checkTag, s.checkDir .opening]
    { s.clearDout with
      verdict := verdictOf (tagBytes s.S) din.toList
      tagValid := false
      S := Sponge.zero }

end Sys2Proof.Machine
end

