-- ==== Sys2Proof/Machine/KeyInit.lean ====
section
/-! DEFINITION. Key loading and call initialization: KEYLD, INIT (41_key_init.md R120 to R122). -/

namespace Sys2Proof.Machine

/-- KEYLD: load the key and the variant, clear the state, begin an AEAD instance (R120). -/
def execKeyld (var : Variant) (din : Block) (s : State) : Host.Outcome State Fault Refusal :=
  s.runCommand [s.checkPhase idlePhases]
    { s.clearDout with
      K := keyOf din
      keyed := true
      var := var
      dir := .sealing
      S := Sponge.zero
      tagValid := false
      verdict := .none
      phase := .uninit }

/-- INIT: begin a call; load `IV‖K‖N`, run 12 rounds, XOR the key into the last two words (R121, R122). -/
def execInit (dir : Dir) (din : Block) (s : State) : Host.Outcome State Fault Refusal :=
  s.runCommand [s.checkPhase idlePhases, s.checkKeyed]
    { s.clearDout with
      dir := dir
      tagValid := false
      verdict := .none
      S := xorKeyLast s.K (permute na (initialSponge s.var s.K din))
      phase := .initialized }

end Sys2Proof.Machine
end

