-- ==== Sys2Proof/Machine/RawMode.lean ====
section
/-! DEFINITION. The commands that drive the permutation engine directly: RAWEN, LDSW, PERM, RDSW
(40_permutation.md R101 to R104). -/

namespace Sys2Proof.Machine

/-- RAWEN: clear the state and enter raw mode; the key, the variant and the direction stay (R101). -/
def execRawen (s : State) : Host.Outcome State Fault Refusal :=
  s.runCommand [s.checkPhase idlePhases]
    { s.clearDout with S := Sponge.zero, tagValid := false, verdict := .none, phase := .raw }

/-- LDSW: `S[IDX] <- be64(DIN[0..7])` (R102). -/
def execLdsw (idx : Nat) (din : Block) (s : State) : Host.Outcome State Fault Refusal :=
  s.runCommand [s.checkPhase [.raw], checkIndex idx] { s.clearDout with S := s.S.set idx (word0 din) }

/-- RDSW: `DOUT[0..7] <- bytes_be(S[IDX])` (R104). -/
def execRdsw (idx : Nat) (s : State) : Host.Outcome State Fault Refusal :=
  s.runCommand [s.checkPhase [.raw], checkIndex idx] (s.putDout (bytesBe (s.S.get idx)))

/-- PERM: `NR` rounds (R103). -/
def execPerm (nr : Nat) (s : State) : Host.Outcome State Fault Refusal :=
  s.runCommand [s.checkPhase [.raw], checkRounds nr] { s.clearDout with S := permute nr s.S }

end Sys2Proof.Machine
end

