-- ==== Sys2Proof/Machine/Dispatch.lean ====
section
/-! DEFINITION. One arm per command: the call of its meaning (30_encoding.md R74). -/

namespace Sys2Proof.Machine

def exec (i : Instr) (s : State) : Host.Outcome State Fault Refusal :=
  match i with
  | .keyld var din => Sys2Proof.Machine.execKeyld var din s
  | .init dir din => Sys2Proof.Machine.execInit dir din s
  | .ad din => Sys2Proof.Machine.execAd din s
  | .adl len din => Sys2Proof.Machine.execAdl len din s
  | .enc din => Sys2Proof.Machine.execEnc din s
  | .encl len din => Sys2Proof.Machine.execEncl len din s
  | .dec din => Sys2Proof.Machine.execDec din s
  | .decl len din => Sys2Proof.Machine.execDecl len din s
  | .final => Sys2Proof.Machine.execFinal s
  | .rdtag => Sys2Proof.Machine.execRdtag s
  | .verify din => Sys2Proof.Machine.execVerify din s
  | .rawen => Sys2Proof.Machine.execRawen s
  | .ldsw idx din => Sys2Proof.Machine.execLdsw idx din s
  | .rdsw idx => Sys2Proof.Machine.execRdsw idx s
  | .perm nr => Sys2Proof.Machine.execPerm nr s

end Sys2Proof.Machine
end

