-- ==== Sys2Proof/Machine/Step.lean ====
section
/-! DEFINITION. One step of the core: the next event at the port is taken and carried out (20_memory.md R58, R62;
70_reset_and_hazards.md R231). -/

namespace Sys2Proof.Machine

/-- A reset event resets (R230); a command is decoded (R73) and executed, or is illegal (R204); with nothing presented the
core waits and nothing changes (10_state.md R26; DESIGN CHOICE, safe: assumption log 2). -/
def step (s : State) : Host.Outcome State Fault Refusal :=
  match s.accept with
  | none => .next s
  | some (.rst, s') => .next s'.takeReset
  | some (.command c, s') =>
    match decode c with
    | .ok i => exec i s'
    | .error _ => .next s'.illegalCommand

/-- The state with the command of the `nbits` low bits of `w` presented as the next event (DESIGN CHOICE, safe: assumption log 3). -/
def State.withFetchWord (s : State) (nbits w : Nat) : State := s.present (tableCommand nbits w)

end Sys2Proof.Machine
end

