-- ==== Sys2Proof/Machine/Tables.lean ====
section
/-! DEFINITION. What the spec says of every command in a table: the phase transition table (10_state.md R36), the operand
bytes consumed and the bytes produced (20_memory.md R57), the faults it can raise (60_exceptions.md R202), the rounds it
runs (40_permutation.md R105) and its latency (70_reset_and_hazards.md R250). No meaning reads these tables: they are the
spec's second description of the commands, for statements to compare the meanings with. -/

namespace Sys2Proof.Machine

/-- R36, column "legal in PHASE". -/
def legalPhases : Instr → List Phase
  | .keyld _ _ => [.uninit, .finalized, .raw]
  | .init _ _ => [.uninit, .finalized, .raw]
  | .ad _ => [.initialized, .absorbAd]
  | .adl _ _ => [.initialized, .absorbAd]
  | .enc _ => [.initialized, .procData]
  | .encl _ _ => [.initialized, .procData]
  | .dec _ => [.initialized, .procData]
  | .decl _ _ => [.initialized, .procData]
  | .final => [.dataDone]
  | .rdtag => [.finalized]
  | .verify _ => [.finalized]
  | .rawen => [.uninit, .finalized, .raw]
  | .ldsw _ _ => [.raw]
  | .rdsw _ => [.raw]
  | .perm _ => [.raw]

/-- R36, column "extra condition", the conditions on DIR and TAGVALID, whose failure is `BAD_PHASE`. -/
def callConditions (i : Instr) (s : State) : Bool :=
  match i with
  | .enc _ => s.dir == .sealing
  | .encl _ _ => s.dir == .sealing
  | .dec _ => s.dir == .opening
  | .decl _ _ => s.dir == .opening
  | .rdtag => s.tagValid && s.dir == .sealing
  | .verify _ => s.tagValid && s.dir == .opening
  | _ => true

/-- R36, column "extra condition", the conditions on the fields, with the fault their failure raises. -/
def fieldFault (i : Instr) (s : State) : Option Cause :=
  match i with
  | .adl len _ =>
    if rate s.var ≤ len ∨ (len = 0 ∧ s.phase = .initialized) then some .badLen else none
  | .encl len _ => if rate s.var ≤ len then some .badLen else none
  | .decl len _ => if rate s.var ≤ len then some .badLen else none
  | .ldsw idx _ => if 4 < idx then some .badIndex else none
  | .rdsw idx => if 4 < idx then some .badIndex else none
  | .perm nr => if 12 < nr then some .badRounds else none
  | _ => none

/-- The fault a decoded command raises outside phase FAULT, in the order of R203: phase, direction and tag; the key, for
INIT; the field range. -/
def commandFault (i : Instr) (s : State) : Option Cause :=
  if s.phase ∉ legalPhases i ∨ callConditions i s = false then some .badPhase
  else if i.opc = 0x2 ∧ s.keyed = false then some .noKey
  else fieldFault i s

/-- R36, column "PHASE after". -/
def phaseAfter : Instr → Phase
  | .keyld _ _ => .uninit
  | .init _ _ => .initialized
  | .ad _ => .absorbAd
  | .adl _ _ => .procData
  | .enc _ => .procData
  | .encl _ _ => .dataDone
  | .dec _ => .procData
  | .decl _ _ => .dataDone
  | .final => .finalized
  | .rdtag => .finalized
  | .verify _ => .finalized
  | .rawen => .raw
  | .ldsw _ _ => .raw
  | .rdsw _ => .raw
  | .perm _ => .raw

/-- R202: the causes a decoded command can raise. -/
def possibleFaults : Instr → List Cause
  | .keyld _ _ => [.badPhase]
  | .init _ _ => [.badPhase, .noKey]
  | .ad _ => [.badPhase]
  | .adl _ _ => [.badPhase, .badLen]
  | .enc _ => [.badPhase]
  | .encl _ _ => [.badPhase, .badLen]
  | .dec _ => [.badPhase]
  | .decl _ _ => [.badPhase, .badLen]
  | .final => [.badPhase]
  | .rdtag => [.badPhase]
  | .verify _ => [.badPhase]
  | .rawen => [.badPhase]
  | .ldsw _ _ => [.badPhase, .badIndex]
  | .rdsw _ => [.badPhase, .badIndex]
  | .perm _ => [.badPhase, .badRounds]

/-- R57, column "DIN bytes consumed". -/
def bytesConsumed (v : Variant) : Instr → Nat
  | .keyld _ _ => 16
  | .init _ _ => 16
  | .ad _ => rate v
  | .adl len _ => len
  | .enc _ => rate v
  | .encl len _ => len
  | .dec _ => rate v
  | .decl len _ => len
  | .final => 0
  | .rdtag => 0
  | .verify _ => 16
  | .rawen => 0
  | .ldsw _ _ => 8
  | .rdsw _ => 0
  | .perm _ => 0

/-- R57, column "DOUT bytes produced". -/
def bytesProduced (v : Variant) : Instr → Nat
  | .keyld _ _ => 0
  | .init _ _ => 0
  | .ad _ => 0
  | .adl _ _ => 0
  | .enc _ => rate v
  | .encl len _ => len
  | .dec _ => rate v
  | .decl len _ => len
  | .final => 0
  | .rdtag => 16
  | .verify _ => 0
  | .rawen => 0
  | .ldsw _ _ => 0
  | .rdsw _ => 8
  | .perm _ => 0

/-- The rounds of the permutation a command runs when it executes (R105, R251). -/
def roundsRun (v : Variant) : Instr → Nat
  | .keyld _ _ => 0
  | .init _ _ => 12
  | .ad _ => nb v
  | .adl _ _ => nb v
  | .enc _ => nb v
  | .encl _ _ => 0
  | .dec _ => nb v
  | .decl _ _ => 0
  | .final => 12
  | .rdtag => 0
  | .verify _ => 0
  | .rawen => 0
  | .ldsw _ _ => 0
  | .rdsw _ => 0
  | .perm nr => nr

/-- The operand bytes a command carries; sixteen zeros where it consumes none (R57). -/
def operand : Instr → Block
  | .keyld _ din => din
  | .init _ din => din
  | .ad din => din
  | .adl _ din => din
  | .enc din => din
  | .encl _ din => din
  | .dec din => din
  | .decl _ din => din
  | .final => zeroBlock
  | .rdtag => zeroBlock
  | .verify din => din
  | .rawen => zeroBlock
  | .ldsw _ din => din
  | .rdsw _ => zeroBlock
  | .perm _ => zeroBlock

/-- The command with its operand bytes replaced; a command that consumes none is unchanged. -/
def withOperand (i : Instr) (d : Block) : Instr :=
  match i with
  | .keyld v _ => .keyld v d
  | .init dir _ => .init dir d
  | .ad _ => .ad d
  | .adl len _ => .adl len d
  | .enc _ => .enc d
  | .encl len _ => .encl len d
  | .dec _ => .dec d
  | .decl len _ => .decl len d
  | .final => .final
  | .rdtag => .rdtag
  | .verify _ => .verify d
  | .rawen => .rawen
  | .ldsw idx _ => .ldsw idx d
  | .rdsw idx => .rdsw idx
  | .perm nr => .perm nr

/-- The latency of a command in clock cycles (R250): the open parameter `LAT` of its opcode, `VAR` and `cw.NR`. -/
def latency (v : Variant) (i : Instr) : Nat := Config.lat i.opc v i.nrField

end Sys2Proof.Machine
end

