-- ==== Sys2Proof/Machine/Assembler.lean ====
section
/-! DEFINITION. The written form of a command (30_encoding.md R77). -/

namespace Sys2Proof.Machine

/-- One hexadecimal digit. -/
def hexDigit (n : Nat) : Char :=
  ['0', '1', '2', '3', '4', '5', '6', '7', '8', '9', 'a', 'b', 'c', 'd', 'e', 'f'].getD n '?'

/-- A run of two-digit hexadecimal bytes. -/
def hexBytes (b : List Byte) : List Char :=
  b.flatMap (fun x => [hexDigit (x.toNat / 16), hexDigit (x.toNat % 16)])

/-- The field operand of a command, where it has one (R77). -/
def asmField : Instr → Option String
  | .keyld .v0 _ => some "v0"
  | .keyld .v1 _ => some "v1"
  | .init .sealing _ => some "seal"
  | .init .opening _ => some "open"
  | .ad _ => none
  | .adl len _ => some (toString len)
  | .enc _ => none
  | .encl len _ => some (toString len)
  | .dec _ => none
  | .decl len _ => some (toString len)
  | .final => none
  | .rdtag => none
  | .verify _ => none
  | .rawen => none
  | .ldsw idx _ => some (toString idx)
  | .rdsw idx => some (toString idx)
  | .perm nr => some (toString nr)

/-- A command as R77 writes it, for a core whose `VAR` is `v`: the mnemonic, the field operand, and after a comma the
operand bytes it consumes; with no byte to write, neither comma nor bytes. -/
def asm (v : Variant) (i : Instr) : String :=
  let bytes := String.ofList (hexBytes (firstBytes (operand i) (bytesConsumed v i)))
  match asmField i, bytesConsumed v i with
  | none, 0 => i.mnemonic
  | none, _ + 1 => i.mnemonic ++ " " ++ bytes
  | some f, 0 => i.mnemonic ++ " " ++ f
  | some f, _ + 1 => i.mnemonic ++ " " ++ f ++ ", " ++ bytes

end Sys2Proof.Machine
end

