-- ==== Sys2Proof/Machine/Sequences.lean ====
section
/-! DEFINITION. The pseudo-instructions SEAL and OPEN: how a host cuts byte strings into blocks and turns a whole call
into commands, and the functions `Seal` and `Open` this defines (30_encoding.md R78; 45_sequences.md R182 to R185, R193). -/

namespace Sys2Proof.Machine

/-! ### Cutting a byte string into blocks (R182) -/

/-- The full blocks `m[0..r-1], m[r..2r-1], ...`, `n div r` of them (R182). -/
def fullBlocks (r : Nat) (m : List Byte) : List (List Byte) :=
  (List.range (m.length / r)).map (fun q => (m.drop (q * r)).take r)

/-- The final block, the `n mod r` bytes after the full ones (R182). -/
def lastBlock (r : Nat) (m : List Byte) : List Byte := m.drop (m.length / r * r)

/-! ### The expansions (R183, R184) -/

/-- The AD-phase commands: none for an empty AD, else one AD for each full block and one ADL (R130, R135, R183). -/
def adCommands (v : Variant) (a : List Byte) : List Instr :=
  if a = [] then []
  else
    (fullBlocks (rate v) a).map (fun b => .ad (blockOf b)) ++
      [.adl (lastBlock (rate v) a).length (blockOf (lastBlock (rate v) a))]

/-- One ENC for each full block of the plaintext, then ENCL (R140, R149, R183). -/
def encryptCommands (v : Variant) (p : List Byte) : List Instr :=
  (fullBlocks (rate v) p).map (fun b => .enc (blockOf b)) ++
    [.encl (lastBlock (rate v) p).length (blockOf (lastBlock (rate v) p))]

/-- One DEC for each full block of the ciphertext, then DECL (R140, R149, R184). -/
def decryptCommands (v : Variant) (c : List Byte) : List Instr :=
  (fullBlocks (rate v) c).map (fun b => .dec (blockOf b)) ++
    [.decl (lastBlock (rate v) c).length (blockOf (lastBlock (rate v) c))]

/-- A seal call from its INIT to its RDTAG (R180, R183), for a core whose `VAR` is `v`. -/
def sealCall (v : Variant) (nonce : Block) (p a : List Byte) : List Instr :=
  .init .sealing nonce :: (adCommands v a ++ encryptCommands v p ++ [.final, .rdtag])

/-- An open call from its INIT to its VERIFY (R180, R184). -/
def openCall (v : Variant) (nonce : Block) (c : List Byte) (tag : Block) (a : List Byte) : List Instr :=
  .init .opening nonce :: (adCommands v a ++ decryptCommands v c ++ [.final, .verify tag])

/-- The expansion of `SEAL v, key, nonce, P, A` (R183). -/
def sealExpansion (v : Variant) (key nonce : Block) (p a : List Byte) : List Instr :=
  .keyld v key :: sealCall v nonce p a

/-- The expansion of `OPEN v, key, nonce, CT, A`, for a `CT` of at least sixteen bytes: the trailing sixteen are the
received tag (R184). -/
def openExpansion (v : Variant) (key nonce : Block) (ct a : List Byte) : List Instr :=
  .keyld v key ::
    openCall v nonce (ct.take (ct.length - 16)) (blockOf (ct.drop (ct.length - 16))) a

/-- The commands of a list as the host presents them, one event each. -/
def portEvents (is : List Instr) : List PortEvent := is.map (fun i => .command (encode i))

/-! ### Running a list of commands (R193) -/

/-- Executing commands in order: the state after the last, and the bytes the host took from `DOUT` after each, in order
(R183, R193). -/
def runAll : List Instr → State → Host.Outcome (State × List Byte) Fault Refusal
  | [], s => .next (s, [])
  | i :: is, s =>
    match exec i s with
    | .next t =>
      match runAll is t with
      | .next (u, out) => .next (u, t.doutBytes ++ out)
      | .fault f => .fault f
      | .refused r => .refused r
    | .fault f => .fault f
    | .refused r => .refused r

/-- The rounds of the permutation a list of commands runs (R185). -/
def totalRounds (v : Variant) (is : List Instr) : Nat := (is.map (roundsRun v)).sum

/-- `Seal(v, K, N, P, A) = C ‖ T` (R183): what the host took from `DOUT` in the run of the expansion from reset; nothing
for a run that does not end in a completed call (R193). -/
def sealMessage (v : Variant) (key nonce : Block) (p a : List Byte) : Option (List Byte) :=
  match runAll (sealExpansion v key nonce p a) State.reset with
  | .next (t, out) => if t.phase = .finalized ∧ t.tagValid then some out else none
  | .fault _ => none
  | .refused _ => none

/-- `Open(v, K, N, CT, A)` (R184): failure without a command for a `CT` shorter than a tag (R191); else the plaintext
the host took, if the verdict is PASS, and failure otherwise. -/
def openMessage (v : Variant) (key nonce : Block) (ct a : List Byte) : Option (List Byte) :=
  if ct.length < 16 then none
  else
    match runAll (openExpansion v key nonce ct a) State.reset with
    | .next (t, out) => if t.verdict = .pass then some out else none
    | .fault _ => none
    | .refused _ => none

end Sys2Proof.Machine
end

