-- ==== Sys2Proof/Safety.lean ====
section
/-! DEFINITION. What counts as a safe state and as a completed call, in the terms the statements use (10_state.md R24, R35,
R42; 45_sequences.md R193; 60_exceptions.md R210). -/

namespace Sys2Proof.Machine

/-- A call is in progress between its INIT and its FINAL (10_state.md R35; 60_exceptions.md R203). -/
def State.inCall (s : State) : Bool :=
  decide (s.phase ∈ [Phase.initialized, .absorbAd, .procData, .dataDone])

/-- A seal call has completed when its RDTAG has executed, an open call when its VERIFY has (R193). In phase FINALIZED only
RDTAG leaves sixteen bytes in `DOUT`, and only VERIFY a verdict (DEDUCED, unsafe: assumption log 6). -/
def State.callComplete (s : State) : Bool :=
  match s.dir with
  | .sealing => decide (s.phase = .finalized ∧ s.tagValid ∧ s.doutLen = 16)
  | .opening => decide (s.phase = .finalized ∧ s.verdict ≠ .none)

/-- What the rules say holds of the registers in every state a run reaches, phase by phase. -/
structure State.Inv (s : State) : Prop where
  /-- `DOUTLEN` is 0 to 16 (R24). -/
  doutLen_le : s.doutLen ≤ 16
  /-- `DOUT[DOUTLEN .. 15]` are zero (R24). -/
  dout_tail : ∀ (k : Nat) (h : k < 16), s.doutLen ≤ k → s.dout[k] = 0#8
  /-- FAULT: every register but PHASE and ERR has its reset value (R35, R210). -/
  fault_cleared : s.phase = .fault →
    s.S = Sponge.zero ∧ s.K = ⟨0#64, 0#64⟩ ∧ s.keyed = false ∧ s.var = .v0 ∧ s.dir = .sealing ∧
      s.tagValid = false ∧ s.verdict = .none ∧ s.doutLen = 0
  /-- `ERR` records a cause in phase FAULT and only there (R32). -/
  err_iff_fault : s.err = .none ↔ s.phase ≠ .fault
  /-- UNINIT: no call in progress and none completed; `S = 0` (R35). -/
  uninit_clear : s.phase = .uninit →
    s.S = Sponge.zero ∧ s.dir = .sealing ∧ s.tagValid = false ∧ s.verdict = .none ∧ s.doutLen = 0
  /-- "`KEYED = 0` cannot hold during a call" (60_exceptions.md R203), nor after one. -/
  call_keyed : s.inCall ∨ s.phase = .finalized → s.keyed = true
  /-- With no key loaded, `K` and `VAR` have their reset values (R22, R30). -/
  unkeyed_clear : s.keyed = false → s.K = ⟨0#64, 0#64⟩ ∧ s.var = .v0
  /-- `TAGVALID = 1` only in phase FINALIZED (R28). -/
  tag_phase : s.tagValid = true → s.phase = .finalized ∧ s.verdict = .none
  /-- A verdict stands only after the VERIFY of an open call, which has cleared the state (R29, R166). -/
  verdict_phase : s.verdict ≠ .none →
    s.phase = .finalized ∧ s.tagValid = false ∧ s.dir = .opening ∧ s.S = Sponge.zero
  /-- In FINALIZED the tag is still there or a verdict has been given (R35, R166). -/
  finalized_tag : s.phase = .finalized → s.tagValid = true ∨ s.verdict ≠ .none
  /-- In FINALIZED an open call has nothing in `DOUT`: the computed tag is never output (R40, R163). -/
  finalized_dout : s.phase = .finalized →
    s.doutLen = 0 ∨ (s.doutLen = 16 ∧ s.dir = .sealing ∧ s.tagValid = true)
  /-- The AD phase produces no data (R57). -/
  ad_dout : s.phase = .initialized ∨ s.phase = .absorbAd → s.doutLen = 0

end Sys2Proof.Machine
end

