-- ==== Sys2Proof/Certificates/Slice0/Obligations.lean ====
section
/-! DEFINITION. The statements for the provers, made from the numbered rules of the spec, and the few words they are said
in. Each docstring names the rule it formalises. -/

namespace Sys2Proof.Claims

open Sys2Proof Sys2Proof.Machine

/-- "Idle" is {UNINIT, FINALIZED, RAW} (10_state.md R36). -/
abbrev Idle (s : State) : Prop := s.phase = .uninit ∨ s.phase = .finalized ∨ s.phase = .raw

/-- The phases of the AD commands (R131, R133). -/
abbrev AdPhase (s : State) : Prop := s.phase = .initialized ∨ s.phase = .absorbAd

/-- The phases of the data commands (43_data.md R140). -/
abbrev DataPhase (s : State) : Prop := s.phase = .initialized ∨ s.phase = .procData

/-- The state fault entry leaves (60_exceptions.md R210), register by register. -/
def faulted (c : Cause) (s : State) : State where
  S := ⟨0#64, 0#64, 0#64, 0#64, 0#64⟩
  K := ⟨0#64, 0#64⟩
  keyed := false
  var := .v0
  dir := .sealing
  phase := .fault
  tagValid := false
  verdict := .none
  err := c
  dout := Vector.replicate 16 0#8
  doutLen := 0
  port := s.port

/-- The reset values of R42's table, with the port events still to come. -/
def resetValues (port : List PortEvent) : State where
  S := ⟨0#64, 0#64, 0#64, 0#64, 0#64⟩
  K := ⟨0#64, 0#64⟩
  keyed := false
  var := .v0
  dir := .sealing
  phase := .uninit
  tagValid := false
  verdict := .none
  err := .none
  dout := Vector.replicate 16 0#8
  doutLen := 0
  port := port

/-- Sixteen zero bytes in DOUT. -/
abbrev noBytes : Block := Vector.replicate 16 0#8

/-- A row of the opcode map: mnemonic, match, mask (30_encoding.md R74). -/
structure MapRow where
  mnemonic : String
  pattern : CmdWord
  mask : CmdWord
deriving DecidableEq, Repr

/-- The table of R74, copied from the spec. -/
def opcodeMap : List MapRow :=
  [⟨"KEYLD", 0x00000001, 0xFFFFFDFF⟩, ⟨"INIT", 0x00000002, 0xFFFFFBFF⟩, ⟨"AD", 0x00000003, 0xFFFFFFFF⟩,
   ⟨"ADL", 0x00000004, 0xFFFFFE0F⟩, ⟨"ENC", 0x00000005, 0xFFFFFFFF⟩, ⟨"ENCL", 0x00000006, 0xFFFFFE0F⟩,
   ⟨"DEC", 0x00000007, 0xFFFFFFFF⟩, ⟨"DECL", 0x00000008, 0xFFFFFE0F⟩, ⟨"FINAL", 0x00000009, 0xFFFFFFFF⟩,
   ⟨"RDTAG", 0x0000000A, 0xFFFFFFFF⟩, ⟨"VERIFY", 0x0000000B, 0xFFFFFFFF⟩, ⟨"RAWEN", 0x0000000C, 0xFFFFFFFF⟩,
   ⟨"LDSW", 0x0000000D, 0xFFFC7FFF⟩, ⟨"RDSW", 0x0000000E, 0xFFFC7FFF⟩, ⟨"PERM", 0x0000000F, 0xFFFF87FF⟩]

/-- A word with this opcode and a bit set outside `OPC` and the opcode's field is illegal: outside phase FAULT it raises
`ILLEGAL_CMD`, whatever the operand (R73, R75). -/
def IllegalBeside (opc field : CmdWord) : Prop :=
  ∀ (cw : CmdWord) (din : Block) (s : State),
    cw &&& 0xF#32 = opc → cw &&& ~~~(0xF#32 ||| field) ≠ 0#32 → s.phase ≠ .fault →
      step (s.present ⟨cw, din⟩) = .next (faulted .illegalCmd s)

/-- The S-box of 40_permutation.md R95, copied from the spec. -/
def sbox : List Nat :=
  [4, 11, 31, 20, 26, 21, 9, 2, 27, 5, 8, 18, 29, 3, 6, 28,
   30, 19, 7, 14, 0, 13, 17, 24, 16, 12, 1, 25, 22, 10, 15, 23]

/-- Bit `j` of a linear-layer word with amounts `a` and `b`: the bit and the two that the right rotations bring to
its place (00_scope.md R9, 40_permutation.md R97). -/
def diffusedBit (x : Word) (a b j : Nat) : Bool :=
  x.getLsbD j ^^ x.getLsbD ((j + a) % 64) ^^ x.getLsbD ((j + b) % 64)

/-- The place of a phase in the source's order, for the phases of a call (R34, R36). -/
def callRank : Phase → Nat
  | .initialized => 1
  | .absorbAd => 2
  | .procData => 3
  | .dataDone => 4
  | .finalized => 5
  | .uninit => 0
  | .raw => 0
  | .fault => 6

/-- Which commands write `K`, `KEYED` and `VAR` (R37). -/
def loadsKey : Instr → Bool
  | .keyld _ _ => true
  | _ => false

/-- Which commands read `K` (R37): INIT and FINAL; KEYLD writes it. -/
def touchesKey : Instr → Bool
  | .keyld _ _ => true
  | .init _ _ => true
  | .final => true
  | _ => false

/-- Which commands write `DIR` (R37). -/
def writesDir : Instr → Bool
  | .keyld _ _ => true
  | .init _ _ => true
  | _ => false

/-- Which commands write `TAGVALID` (R37). -/
def writesTagValid : Instr → Bool
  | .keyld _ _ => true
  | .init _ _ => true
  | .final => true
  | .verify _ => true
  | .rawen => true
  | _ => false

/-- Which commands write `VERDICT` (R37). -/
def writesVerdict : Instr → Bool
  | .keyld _ _ => true
  | .init _ _ => true
  | .verify _ => true
  | .rawen => true
  | _ => false

/-- The words the entry step of a data command leaves in `S` (43_data.md R140). -/
def entered (s : State) : Sponge :=
  if s.phase = .initialized then { s.S with x4 := s.S.x4 ^^^ 1#64 } else s.S

/-- What a command makes of `S` before its rounds, command by command (40_permutation.md R101 to R104, and files 41 to
44); for a command without rounds, all it makes of `S`. -/
def beforeRounds (i : Instr) (s : State) : Sponge :=
  match i with
  | .keyld _ _ => ⟨0#64, 0#64, 0#64, 0#64, 0#64⟩
  | .init _ d => ⟨iv s.var, s.K.k0, s.K.k1, be64 (d.toList.take 8), be64 (d.toList.drop 8)⟩
  | .ad d => xorRate s.var (d.toList.take (rate s.var)) s.S
  | .adl n d => xorRate s.var (pad s.var (d.toList.take n)) s.S
  | .enc d => xorRate s.var (d.toList.take (rate s.var)) (entered s)
  | .encl n d => xorRate s.var (pad s.var (d.toList.take n)) (entered s)
  | .dec d => setRateBytes s.var (d.toList.take (rate s.var)) (entered s)
  | .decl n d =>
    let r := rateBytes s.var (entered s)
    setRateBytes s.var (d.toList.take n ++ [r.getD n 0#8 ^^^ 0x80#8] ++ r.drop (n + 1)) (entered s)
  | .final =>
    match s.var with
    | .v0 => { s.S with x1 := s.S.x1 ^^^ s.K.k0, x2 := s.S.x2 ^^^ s.K.k1 }
    | .v1 => { s.S with x2 := s.S.x2 ^^^ s.K.k0, x3 := s.S.x3 ^^^ s.K.k1 }
  | .rdtag => s.S
  | .verify _ => ⟨0#64, 0#64, 0#64, 0#64, 0#64⟩
  | .rawen => ⟨0#64, 0#64, 0#64, 0#64, 0#64⟩
  | .ldsw n d => s.S.set n (be64 (d.toList.take 8))
  | .rdsw _ => s.S
  | .perm _ => s.S

/-- What a command makes of the words `T` its rounds have left: INIT and FINAL XOR the key into the last two (R122, R160),
ADL applies the domain-separation bit (R133), the others nothing. -/
def afterRounds (i : Instr) (s : State) (T : Sponge) : Sponge :=
  match i with
  | .init _ _ => { T with x3 := T.x3 ^^^ s.K.k0, x4 := T.x4 ^^^ s.K.k1 }
  | .final => { T with x3 := T.x3 ^^^ s.K.k0, x4 := T.x4 ^^^ s.K.k1 }
  | .adl _ _ => { T with x4 := T.x4 ^^^ 1#64 }
  | _ => T

end Sys2Proof.Claims

open Sys2Proof Sys2Proof.Machine

/-! ### Encoding and decoding -/

/-- Decoding the encoding of a well-formed command gives it back, every field and every operand byte at every value
(30_encoding.md R71, R72, R74). -/
def Obligations.DecodeOfEncodeIsTheCommand : Prop :=
  ∀ i : Instr, i.wellFormed = true → decode (encode i) = .ok i

/-- The other direction: a word that decodes is the encoding's word, the command is well-formed, and the operand it carries
is the one presented (R70, R71, R73). -/
def Obligations.EncodeOfDecodeIsTheWord : Prop :=
  ∀ (c : Command) (i : Instr), decode c = .ok i →
    (encode i).cw = c.cw ∧ i.wellFormed = true ∧ (0 < bytesConsumed .v1 i → operand i = c.din)

/-- R73 with the table of R74: a word decodes to the command of a row exactly when `CW & mask = match`; at most one row
matches; the operand plays no part; a word that matches none raises `ILLEGAL_CMD`, but in phase FAULT has no effect (R204). -/
def Obligations.DecodingIsStrictByTheTable : Prop :=
  ∀ (cw : CmdWord) (din : Block),
    (∀ i, decode ⟨cw, din⟩ = .ok i →
      ∃ r ∈ Claims.opcodeMap, r.mnemonic = i.mnemonic ∧ cw &&& r.mask = r.pattern) ∧
    (∀ r ∈ Claims.opcodeMap, cw &&& r.mask = r.pattern →
      ∃ i, decode ⟨cw, din⟩ = .ok i ∧ i.mnemonic = r.mnemonic) ∧
    (∀ r ∈ Claims.opcodeMap, ∀ r' ∈ Claims.opcodeMap,
      cw &&& r.mask = r.pattern → cw &&& r'.mask = r'.pattern → r = r') ∧
    (∀ (din' : Block) (i : Instr), decode ⟨cw, din⟩ = .ok i →
      decode ⟨cw, din'⟩ = .ok (withOperand i din')) ∧
    ((∀ r ∈ Claims.opcodeMap, cw &&& r.mask ≠ r.pattern) →
      ∀ s : State,
        (s.phase ≠ .fault → step (s.present ⟨cw, din⟩) = .next (Claims.faulted .illegalCmd s)) ∧
        (s.phase = .fault → step (s.present ⟨cw, din⟩) = .next s))

/-- Words of 95_test_vectors.md section 7 and what they decode to: one or two of every family, and the illegal ones of
R75. -/
def Obligations.WordsOfTheSpecDecode : Prop :=
  ∀ d : Block,
    decode ⟨0x00000201#32, d⟩ = .ok (.keyld .v1 d) ∧ decode ⟨0x00000402#32, d⟩ = .ok (.init .opening d) ∧
    decode ⟨0x000000F4#32, d⟩ = .ok (.adl 15 d) ∧ decode ⟨0x00000086#32, d⟩ = .ok (.encl 8 d) ∧
    decode ⟨0x00000018#32, d⟩ = .ok (.decl 1 d) ∧ decode ⟨0x0000000B#32, d⟩ = .ok (.verify d) ∧
    decode ⟨0x0002000D#32, d⟩ = .ok (.ldsw 4 d) ∧ decode ⟨0x0002800E#32, d⟩ = .ok (.rdsw 5) ∧
    decode ⟨0x0000600F#32, d⟩ = .ok (.perm 12) ∧ decode ⟨0x00000000#32, d⟩ = .error .opcZero ∧
    decode ⟨0x00000013#32, d⟩ = .error .unusedField ∧ decode ⟨0x00040001#32, d⟩ = .error .zeroField

/-! ### The step, reset and the fault state -/

/-- A presented command that decodes is executed on the state from which the event has been taken: nothing else is added
(20_memory.md R58, R62). The port field that holds the event is the model's (assumption log 1). -/
def Obligations.StepRunsTheDecodedCommand : Prop :=
  ∀ (s : State) (c : Command) (rest : List PortEvent) (i : Instr),
    s.port = .command c :: rest → decode c = .ok i → step s = exec i { s with port := rest }

/-- R42's value of every register after reset; and, which is the model's own choice and not R42's (DESIGN CHOICE,
assumption log 1), an empty list of port events. -/
def Obligations.ResetValuesAreTheTable : Prop := State.reset = Claims.resetValues []

/-- RST gives every register its reset value, in whatever phase, and `ST = 0` (R230); the later events of the model's port
field are still to come (assumption log 1). -/
def Obligations.ResetEventClearsEverything : Prop :=
  ∀ (s : State) (rest : List PortEvent), s.port = .rst :: rest →
    step s = .next (Claims.resetValues rest) ∧ (Claims.resetValues rest).st = 0#32

/-- R212: in phase FAULT every command, legal, illegal or undecodable, has no effect at all; the only exit is reset. -/
def Obligations.FaultStateIsLeftOnlyByReset : Prop :=
  ∀ s : State, s.phase = .fault →
    (∀ c : Command, step (s.present c) = .next s) ∧
    (∀ rest, s.port = .rst :: rest → step s = .next (Claims.resetValues rest)) ∧
    (∀ t, step s = .next t → t.phase ≠ .fault → ∃ rest, s.port = .rst :: rest)

/-! ### The permutation engine -/

/-- R92: the twelve constants, and the formula they come from. -/
def Obligations.RoundConstantsAreTheTwelve : Prop :=
  (List.range 12).map roundConstant =
    [0xF0#64, 0xE1#64, 0xD2#64, 0xC3#64, 0xB4#64, 0xA5#64, 0x96#64, 0x87#64, 0x78#64, 0x69#64, 0x5A#64, 0x4B#64] ∧
  ∀ i < 12, (roundConstant i).toNat = (15 - i) * 16 + i

/-- R93: `S[2]` is XORed with the 8-bit constant, only its bits 7:0 can change, and no other word is touched. -/
def Obligations.ConstantAdditionTouchesOneByte : Prop :=
  ∀ (i : Nat) (S : Sponge), i < 12 →
    addConstant i S = { S with x2 := S.x2 ^^^ BitVec.setWidth 64 (BitVec.ofNat 8 ((15 - i) * 16 + i)) } ∧
    ∀ j, 8 ≤ j → (addConstant i S).x2.getLsbD j = S.x2.getLsbD j

/-- R95: the substitution layer replaces every one of the 64 bit-columns by the table's entry for it. -/
def Obligations.SubstitutionIsTheSboxOnColumns : Prop :=
  ∀ (S : Sponge) (j : Nat), j < 64 →
    column S j < 32 ∧ column (substitute S) j = Claims.sbox.getD (column S j) 0

/-- R96: the S-box is a permutation of 0 to 31, so the layer is invertible. -/
def Obligations.SubstitutionIsInvertible : Prop :=
  Claims.sbox.Nodup ∧ (∀ v ∈ Claims.sbox, v < 32) ∧ Function.Bijective substitute

/-- R97: each word is XORed with two right rotations of itself by the ten amounts, each from its own old value; each word
map is linear and invertible. -/
def Obligations.DiffusionIsTheTenRotations : Prop :=
  (∀ (S : Sponge) (j : Nat), j < 64 →
    (diffuse S).x0.getLsbD j = Claims.diffusedBit S.x0 19 28 j ∧
    (diffuse S).x1.getLsbD j = Claims.diffusedBit S.x1 61 39 j ∧
    (diffuse S).x2.getLsbD j = Claims.diffusedBit S.x2 1 6 j ∧
    (diffuse S).x3.getLsbD j = Claims.diffusedBit S.x3 10 17 j ∧
    (diffuse S).x4.getLsbD j = Claims.diffusedBit S.x4 7 41 j) ∧
  ∀ r ∈ [params.rot0, params.rot1, params.rot2, params.rot3, params.rot4],
    (∀ x y : Word, diffuseWord r (x ^^^ y) = diffuseWord r x ^^^ diffuseWord r y) ∧
    Function.Bijective (diffuseWord r)

/-- R90: the engine is a bijection on 320-bit states, for every round count a command can run. -/
def Obligations.PermutationIsABijection : Prop := ∀ n ≤ 12, Function.Bijective (permute n)

/-- R99 and R100: the indices `12-n .. 11` in increasing order, and the corner cases: no round is the identity, one round
is `round(11)`, a shorter permutation is the tail of the 12-round one, and it is not one round repeated. -/
def Obligations.PermuteFollowsTheSchedule : Prop :=
  (∀ n ≤ 12, ∀ S, permute n S = (List.range n).foldl (fun T k => Machine.round (12 - n + k) T) S) ∧
  (∀ S, permute 0 S = S) ∧
  (∀ S, permute 1 S = Machine.round 11 S) ∧
  (∀ n ≤ 12, ∀ S,
    permute 12 S = permute n ((List.range (12 - n)).foldl (fun T k => Machine.round k T) S)) ∧
  (∃ S, permute 2 S ≠ permute 1 (permute 1 S))

/-- The zero-state values of R100 for 1, 6, 8 and 12 rounds. -/
def Obligations.PermuteGivesTheWorkedValues : Prop :=
  permute 1 ⟨0, 0, 0, 0, 0⟩ =
    ⟨0x000964b00000004b, 0x0000000096000213, 0x53ffffffffffff90, 0x12e580000000004b, 0x0000000000000000⟩ ∧
  permute 6 ⟨0, 0, 0, 0, 0⟩ =
    ⟨0x160c84f20faad4f1, 0x21495b1b0ae33eef, 0xe0377d04e23a914b, 0x2b23481598ffa8ea, 0x649af379ba83cd30⟩ ∧
  permute 8 ⟨0, 0, 0, 0, 0⟩ =
    ⟨0x1418f8af721aa830, 0xa5425f1f8cb31388, 0xa01ef761bf8e1652, 0xf01fdabf8c8a82b4, 0x0168260badf76a06⟩ ∧
  permute 12 ⟨0, 0, 0, 0, 0⟩ =
    ⟨0x78ea7ae5cfebb108, 0x9b9bfb8513b560f7, 0x6937f83e03d11a50, 0x3fe53f36f2c1178c, 0x045d648e4def12c9⟩

/-! ### Parameters, bytes and padding -/

/-- The two variants' parameters and the full round count (00_scope.md R6; the IV values of 10_state.md R33). -/
def Obligations.VariantParametersAreTheTable : Prop :=
  rate .v0 = 8 ∧ rw .v0 = 1 ∧ nb .v0 = 6 ∧ iv .v0 = 0x80400C0600000000#64 ∧
  rate .v1 = 16 ∧ rw .v1 = 2 ∧ nb .v1 = 8 ∧ iv .v1 = 0x80800C0800000000#64 ∧ na = 12 ∧
  ∀ v : Variant, v = .v0 ∨ v = .v1

/-- Bytes and words are big-endian and inverse to each other (00_scope.md R9, 20_memory.md R51, R53): byte `k` of a word is
its bits `63-8k : 56-8k`. -/
def Obligations.BytesAndWordsAreInverse : Prop :=
  (∀ (w : Word) (k : Nat), k < 8 → (bytesBe w)[k]? = some (w.extractLsb' (56 - 8 * k) 8)) ∧
  (∀ w : Word, be64 (bytesBe w) = w) ∧
  (∀ b : List Byte, b.length = 8 → bytesBe (be64 b) = b) ∧
  (∀ d : Block, bytesBe (be64 (d.toList.take 8)) ++ bytesBe (be64 (d.toList.drop 8)) = d.toList)

/-- R52: byte `k` of the rate portion is big-endian byte `k mod 8` of `S[k div 8]`; a block of `RATE` bytes is placed in it
or XORed into it by that mapping, and no capacity word changes. -/
def Obligations.RateBytesFollowTheMapping : Prop :=
  ∀ (v : Variant) (S : Sponge),
    (∀ k < rate v,
      (rateBytes v S)[k]? = some ((S.get (k / 8)).extractLsb' (56 - 8 * (k % 8)) 8)) ∧
    (rateBytes v S).length = rate v ∧
    ∀ b : List Byte, b.length = rate v →
      rateBytes v (setRateBytes v b S) = b ∧
      rateBytes v (xorRate v b S) = List.zipWith (· ^^^ ·) (rateBytes v S) b ∧
      (∀ j, rw v ≤ j → (setRateBytes v b S).get j = S.get j ∧ (xorRate v b S).get j = S.get j)

/-- R54, the padding of a final block of `L < RATE` bytes, as a string and in word terms: the pad byte is
`0x80 << (56 - 8(L mod 8))` XORed into `S[L div 8]`. -/
def Obligations.PaddingIsOneByteThenZeros : Prop :=
  ∀ (v : Variant) (m : List Byte) (S : Sponge), m.length < rate v →
    pad v m = m ++ [0x80#8] ++ List.replicate (rate v - m.length - 1) 0#8 ∧
    (pad v m).length = rate v ∧
    xorRate v (pad v m) S =
      (let T := xorRate v (m ++ List.replicate (rate v - m.length) 0#8) S
       T.set (m.length / 8)
        (T.get (m.length / 8) ^^^ (0x80#64 <<< (56 - 8 * (m.length % 8)))))

/-! ### The fifteen commands -/

/-- R101, RAWEN. -/
def Obligations.RawenEntersRawMode : Prop :=
  (∀ s : State, Claims.Idle s →
    exec .rawen s = .next
      { s with
        S := ⟨0#64, 0#64, 0#64, 0#64, 0#64⟩, tagValid := false, verdict := .none,
        dout := Claims.noBytes, doutLen := 0, phase := .raw }) ∧
  (∀ s : State, ¬ Claims.Idle s → s.phase ≠ .fault →
    exec .rawen s = .next (Claims.faulted .badPhase s)) ∧
  (∀ d, decode ⟨0x0000000C#32, d⟩ = .ok .rawen) ∧
  Claims.IllegalBeside 0xC#32 0#32

/-- R102, LDSW. -/
def Obligations.LdswLoadsOneWord : Prop :=
  (∀ (i : Nat) (d : Block) (s : State), s.phase = .raw → i ≤ 4 →
    exec (.ldsw i d) s = .next
      { s with S := s.S.set i (be64 (d.toList.take 8)), dout := Claims.noBytes, doutLen := 0 } ∧
    (s.S.set i (be64 (d.toList.take 8))).get i = be64 (d.toList.take 8) ∧
    ∀ j, j ≠ i → (s.S.set i (be64 (d.toList.take 8))).get j = s.S.get j) ∧
  (∀ (i : Nat) (d : Block) (s : State), s.phase ≠ .raw → s.phase ≠ .fault →
    exec (.ldsw i d) s = .next (Claims.faulted .badPhase s)) ∧
  (∀ (i : Nat) (d : Block) (s : State), s.phase = .raw → 4 < i →
    exec (.ldsw i d) s = .next (Claims.faulted .badIndex s)) ∧
  (∀ i < 8, ∀ d, decode ⟨0xD#32 ||| BitVec.ofNat 32 (i <<< 15), d⟩ = .ok (.ldsw i d)) ∧
  Claims.IllegalBeside 0xD#32 0x00038000#32

/-- R104, RDSW. -/
def Obligations.RdswReadsOneWord : Prop :=
  (∀ (i : Nat) (s : State), s.phase = .raw → i ≤ 4 →
    exec (.rdsw i) s = .next { s with dout := blockOf (bytesBe (s.S.get i)), doutLen := 8 }) ∧
  (∀ (i : Nat) (s : State), s.phase ≠ .raw → s.phase ≠ .fault →
    exec (.rdsw i) s = .next (Claims.faulted .badPhase s)) ∧
  (∀ (i : Nat) (s : State), s.phase = .raw → 4 < i →
    exec (.rdsw i) s = .next (Claims.faulted .badIndex s)) ∧
  (∀ i < 8, ∀ d, decode ⟨0xE#32 ||| BitVec.ofNat 32 (i <<< 15), d⟩ = .ok (.rdsw i)) ∧
  Claims.IllegalBeside 0xE#32 0x00038000#32

/-- R103, PERM. -/
def Obligations.PermRunsTheRounds : Prop :=
  (∀ (n : Nat) (s : State), s.phase = .raw → n ≤ 12 →
    exec (.perm n) s = .next { s with S := permute n s.S, dout := Claims.noBytes, doutLen := 0 }) ∧
  (∀ (n : Nat) (s : State), s.phase ≠ .raw → s.phase ≠ .fault →
    exec (.perm n) s = .next (Claims.faulted .badPhase s)) ∧
  (∀ (n : Nat) (s : State), s.phase = .raw → 12 < n →
    exec (.perm n) s = .next (Claims.faulted .badRounds s)) ∧
  (∀ n < 16, ∀ d, decode ⟨0xF#32 ||| BitVec.ofNat 32 (n <<< 11), d⟩ = .ok (.perm n)) ∧
  Claims.IllegalBeside 0xF#32 0x00007800#32

/-- R120, KEYLD. -/
def Obligations.KeyldLoadsKeyAndVariant : Prop :=
  (∀ (v : Variant) (d : Block) (s : State), Claims.Idle s →
    exec (.keyld v d) s = .next
      { s with
        K := ⟨be64 (d.toList.take 8), be64 (d.toList.drop 8)⟩, keyed := true, var := v, dir := .sealing,
        S := ⟨0#64, 0#64, 0#64, 0#64, 0#64⟩, tagValid := false, verdict := .none,
        dout := Claims.noBytes, doutLen := 0, phase := .uninit }) ∧
  (∀ (v : Variant) (d : Block) (s : State), ¬ Claims.Idle s → s.phase ≠ .fault →
    exec (.keyld v d) s = .next (Claims.faulted .badPhase s)) ∧
  (∀ d, decode ⟨0x00000001#32, d⟩ = .ok (.keyld .v0 d)) ∧
  (∀ d, decode ⟨0x00000201#32, d⟩ = .ok (.keyld .v1 d)) ∧
  Claims.IllegalBeside 0x1#32 0x00000200#32

/-- R122 with R121, INIT. -/
def Obligations.InitBeginsACall : Prop :=
  (∀ (r : Dir) (d : Block) (s : State), Claims.Idle s → s.keyed = true →
    exec (.init r d) s = .next
      (let T := permute 12
        ⟨iv s.var, s.K.k0, s.K.k1, be64 (d.toList.take 8), be64 (d.toList.drop 8)⟩
       { s with
        dir := r, tagValid := false, verdict := .none,
        S := { T with x3 := T.x3 ^^^ s.K.k0, x4 := T.x4 ^^^ s.K.k1 },
        dout := Claims.noBytes, doutLen := 0, phase := .initialized })) ∧
  (∀ (r : Dir) (d : Block) (s : State), ¬ Claims.Idle s → s.phase ≠ .fault →
    exec (.init r d) s = .next (Claims.faulted .badPhase s)) ∧
  (∀ (r : Dir) (d : Block) (s : State), Claims.Idle s → s.keyed = false →
    exec (.init r d) s = .next (Claims.faulted .noKey s)) ∧
  (∀ d, decode ⟨0x00000002#32, d⟩ = .ok (.init .sealing d)) ∧
  (∀ d, decode ⟨0x00000402#32, d⟩ = .ok (.init .opening d)) ∧
  Claims.IllegalBeside 0x2#32 0x00000400#32

/-- R131, AD. -/
def Obligations.AdAbsorbsAFullBlock : Prop :=
  (∀ (d : Block) (s : State), Claims.AdPhase s →
    exec (.ad d) s = .next
      { s with
        S := permute (nb s.var) (xorRate s.var (d.toList.take (rate s.var)) s.S),
        dout := Claims.noBytes, doutLen := 0, phase := .absorbAd }) ∧
  (∀ (d : Block) (s : State), ¬ Claims.AdPhase s → s.phase ≠ .fault →
    exec (.ad d) s = .next (Claims.faulted .badPhase s)) ∧
  (∀ d, decode ⟨0x00000003#32, d⟩ = .ok (.ad d)) ∧
  Claims.IllegalBeside 0x3#32 0#32

/-- R133, ADL. -/
def Obligations.AdlClosesTheAdPhase : Prop :=
  (∀ (n : Nat) (d : Block) (s : State), Claims.AdPhase s → n < rate s.var →
    (s.phase = .initialized → 1 ≤ n) →
    exec (.adl n d) s = .next
      (let T := permute (nb s.var) (xorRate s.var (pad s.var (d.toList.take n)) s.S)
       { s with
        S := { T with x4 := T.x4 ^^^ 1#64 },
        dout := Claims.noBytes, doutLen := 0, phase := .procData })) ∧
  (∀ (n : Nat) (d : Block) (s : State), ¬ Claims.AdPhase s → s.phase ≠ .fault →
    exec (.adl n d) s = .next (Claims.faulted .badPhase s)) ∧
  (∀ (n : Nat) (d : Block) (s : State), Claims.AdPhase s →
    (rate s.var ≤ n ∨ (n = 0 ∧ s.phase = .initialized)) →
    exec (.adl n d) s = .next (Claims.faulted .badLen s)) ∧
  (∀ n < 32, ∀ d, decode ⟨0x4#32 ||| BitVec.ofNat 32 (n <<< 4), d⟩ = .ok (.adl n d)) ∧
  Claims.IllegalBeside 0x4#32 0x000001F0#32

/-- R141 with the entry step of R140, ENC. -/
def Obligations.EncEncryptsAFullBlock : Prop :=
  (∀ (d : Block) (s : State), Claims.DataPhase s → s.dir = .sealing →
    exec (.enc d) s = .next
      (let E := if s.phase = .initialized then { s.S with x4 := s.S.x4 ^^^ 1#64 } else s.S
       let A := xorRate s.var (d.toList.take (rate s.var)) E
       { s with
        S := permute (nb s.var) A,
        dout := blockOf (rateBytes s.var A), doutLen := rate s.var, phase := .procData })) ∧
  (∀ (d : Block) (s : State), ¬ (Claims.DataPhase s ∧ s.dir = .sealing) → s.phase ≠ .fault →
    exec (.enc d) s = .next (Claims.faulted .badPhase s)) ∧
  (∀ d, decode ⟨0x00000005#32, d⟩ = .ok (.enc d)) ∧
  Claims.IllegalBeside 0x5#32 0#32

/-- R143, ENCL. -/
def Obligations.EnclEncryptsTheFinalBlock : Prop :=
  (∀ (n : Nat) (d : Block) (s : State), Claims.DataPhase s → s.dir = .sealing → n < rate s.var →
    exec (.encl n d) s = .next
      (let E := if s.phase = .initialized then { s.S with x4 := s.S.x4 ^^^ 1#64 } else s.S
       let A := xorRate s.var (pad s.var (d.toList.take n)) E
       { s with
        S := A, dout := blockOf ((rateBytes s.var A).take n), doutLen := n, phase := .dataDone })) ∧
  (∀ (n : Nat) (d : Block) (s : State),
    ¬ (Claims.DataPhase s ∧ s.dir = .sealing) → s.phase ≠ .fault →
    exec (.encl n d) s = .next (Claims.faulted .badPhase s)) ∧
  (∀ (n : Nat) (d : Block) (s : State), Claims.DataPhase s → s.dir = .sealing → rate s.var ≤ n →
    exec (.encl n d) s = .next (Claims.faulted .badLen s)) ∧
  (∀ n < 32, ∀ d, decode ⟨0x6#32 ||| BitVec.ofNat 32 (n <<< 4), d⟩ = .ok (.encl n d)) ∧
  Claims.IllegalBeside 0x6#32 0x000001F0#32

/-- R145, DEC. -/
def Obligations.DecDecryptsAFullBlock : Prop :=
  (∀ (d : Block) (s : State), Claims.DataPhase s → s.dir = .opening →
    exec (.dec d) s = .next
      (let E := if s.phase = .initialized then { s.S with x4 := s.S.x4 ^^^ 1#64 } else s.S
       let c := d.toList.take (rate s.var)
       { s with
        S := permute (nb s.var) (setRateBytes s.var c E),
        dout := blockOf (List.zipWith (· ^^^ ·) c (rateBytes s.var E)), doutLen := rate s.var,
        phase := .procData })) ∧
  (∀ (d : Block) (s : State), ¬ (Claims.DataPhase s ∧ s.dir = .opening) → s.phase ≠ .fault →
    exec (.dec d) s = .next (Claims.faulted .badPhase s)) ∧
  (∀ d, decode ⟨0x00000007#32, d⟩ = .ok (.dec d)) ∧
  Claims.IllegalBeside 0x7#32 0#32

/-- R147, DECL. -/
def Obligations.DeclDecryptsTheFinalBlock : Prop :=
  (∀ (n : Nat) (d : Block) (s : State), Claims.DataPhase s → s.dir = .opening → n < rate s.var →
    exec (.decl n d) s = .next
      (let E := if s.phase = .initialized then { s.S with x4 := s.S.x4 ^^^ 1#64 } else s.S
       let r := rateBytes s.var E
       let c := d.toList.take n
       { s with
        S := setRateBytes s.var (c ++ [r.getD n 0#8 ^^^ 0x80#8] ++ r.drop (n + 1)) E,
        dout := blockOf (List.zipWith (· ^^^ ·) c r), doutLen := n, phase := .dataDone })) ∧
  (∀ (n : Nat) (d : Block) (s : State),
    ¬ (Claims.DataPhase s ∧ s.dir = .opening) → s.phase ≠ .fault →
    exec (.decl n d) s = .next (Claims.faulted .badPhase s)) ∧
  (∀ (n : Nat) (d : Block) (s : State), Claims.DataPhase s → s.dir = .opening → rate s.var ≤ n →
    exec (.decl n d) s = .next (Claims.faulted .badLen s)) ∧
  (∀ n < 32, ∀ d, decode ⟨0x8#32 ||| BitVec.ofNat 32 (n <<< 4), d⟩ = .ok (.decl n d)) ∧
  Claims.IllegalBeside 0x8#32 0x000001F0#32

/-- R160 with the key's place of R161, FINAL. -/
def Obligations.FinalDerivesTheTag : Prop :=
  (∀ s : State, s.phase = .dataDone →
    exec .final s = .next
      (let A : Sponge := match s.var with
        | .v0 => { s.S with x1 := s.S.x1 ^^^ s.K.k0, x2 := s.S.x2 ^^^ s.K.k1 }
        | .v1 => { s.S with x2 := s.S.x2 ^^^ s.K.k0, x3 := s.S.x3 ^^^ s.K.k1 }
       let T := permute 12 A
       { s with
        S := { T with x3 := T.x3 ^^^ s.K.k0, x4 := T.x4 ^^^ s.K.k1 },
        tagValid := true, dout := Claims.noBytes, doutLen := 0, phase := .finalized })) ∧
  (∀ s : State, s.phase ≠ .dataDone → s.phase ≠ .fault →
    exec .final s = .next (Claims.faulted .badPhase s)) ∧
  (∀ d, decode ⟨0x00000009#32, d⟩ = .ok .final) ∧
  Claims.IllegalBeside 0x9#32 0#32

/-- R163, RDTAG; repeating it returns the same. -/
def Obligations.RdtagReadsTheTag : Prop :=
  (∀ s : State, s.phase = .finalized → s.tagValid = true → s.dir = .sealing →
    exec .rdtag s = .next
      { s with dout := blockOf (bytesBe s.S.x3 ++ bytesBe s.S.x4), doutLen := 16 }) ∧
  (∀ s : State, ¬ (s.phase = .finalized ∧ s.tagValid = true ∧ s.dir = .sealing) → s.phase ≠ .fault →
    exec .rdtag s = .next (Claims.faulted .badPhase s)) ∧
  (∀ s t : State, exec .rdtag s = .next t → exec .rdtag t = .next t) ∧
  (∀ d, decode ⟨0x0000000A#32, d⟩ = .ok .rdtag) ∧
  Claims.IllegalBeside 0xA#32 0#32

/-- R166, VERIFY. -/
def Obligations.VerifyComparesAndClears : Prop :=
  (∀ (d : Block) (s : State), s.phase = .finalized → s.tagValid = true → s.dir = .opening →
    exec (.verify d) s = .next
      { s with
        verdict := if bytesBe s.S.x3 ++ bytesBe s.S.x4 = d.toList then .pass else .fail,
        tagValid := false, S := ⟨0#64, 0#64, 0#64, 0#64, 0#64⟩,
        dout := Claims.noBytes, doutLen := 0 }) ∧
  (∀ (d : Block) (s : State),
    ¬ (s.phase = .finalized ∧ s.tagValid = true ∧ s.dir = .opening) → s.phase ≠ .fault →
    exec (.verify d) s = .next (Claims.faulted .badPhase s)) ∧
  (∀ d, decode ⟨0x0000000B#32, d⟩ = .ok (.verify d)) ∧
  Claims.IllegalBeside 0xB#32 0#32

/-! ### Whole-machine rules -/

/-- R203 and R210: outside phase FAULT the first failing check, in the order decode, phase with direction and tag, key, field
range, decides the cause; the state is then fault entry's, and `ST` is `7 | cause<<9`; with no check failing no fault is taken. -/
def Obligations.FirstFailingCheckDecidesTheFault : Prop :=
  ∀ (s : State) (c : Command), s.phase ≠ .fault →
    ((∃ e, decode c = .error e) → step (s.present c) = .next (Claims.faulted .illegalCmd s)) ∧
    (∀ i, decode c = .ok i →
      (∀ x, commandFault i s = some x → step (s.present c) = .next (Claims.faulted x s)) ∧
      (commandFault i s = none →
        ∃ t, step (s.present c) = .next t ∧ t.phase ≠ .fault ∧ t.err = s.err)) ∧
    (∀ x : Cause, (Claims.faulted x s).st = 7#32 ||| BitVec.ofNat 32 (x.code <<< 9))

/-- R36: a legal command leaves the phase of the table's last column, any other enters FAULT, none has an effect in FAULT; a
call's phases are visited in the source's order; only INIT from an idle phase enters INITIALIZED. -/
def Obligations.PhaseFollowsTheTransitionTable : Prop :=
  ∀ (i : Instr) (s t : State), exec i s = .next t →
    (s.phase = .fault → t = s) ∧
    (s.phase ≠ .fault → commandFault i s = none → t.phase = phaseAfter i) ∧
    (s.phase ≠ .fault → ∀ x, commandFault i s = some x → t = Claims.faulted x s) ∧
    (s.inCall = true → Claims.callRank s.phase ≤ Claims.callRank t.phase) ∧
    (t.phase = .initialized → (∃ r d, i = .init r d) ∧ Claims.Idle s ∧ s.keyed = true)

/-- The write columns of R37's table as a frame: what an executed command leaves unchanged, with ERR (R32) and the port,
which no executed command writes. -/
def Obligations.CommandsWriteOnlyTheirRegisters : Prop :=
  ∀ (i : Instr) (s t : State), s.phase ≠ .fault → commandFault i s = none → exec i s = .next t →
    (Claims.loadsKey i = false → t.K = s.K ∧ t.keyed = s.keyed ∧ t.var = s.var) ∧
    (Claims.writesDir i = false → t.dir = s.dir) ∧
    (Claims.writesTagValid i = false → t.tagValid = s.tagValid) ∧
    (Claims.writesVerdict i = false → t.verdict = s.verdict) ∧
    (∀ n, i = .rdsw n → t.S = s.S) ∧
    (i = .rdtag → t.S = s.S) ∧
    (∀ n d, i = .ldsw n d → ∀ j, j ≠ n → t.S.get j = s.S.get j) ∧
    t.err = s.err ∧ t.port = s.port

/-- R22 and R30, over every step: `K`, `KEYED` and `VAR` change only by KEYLD, which is legal in an idle phase alone, and are
cleared by a fault and by reset. -/
def Obligations.KeyChangesOnlyByKeyldFaultOrReset : Prop :=
  ∀ s t : State, step s = .next t →
    (t.K = s.K ∧ t.keyed = s.keyed ∧ t.var = s.var) ∨
    (∃ c rest v d, s.port = .command c :: rest ∧ decode c = .ok (.keyld v d) ∧ Claims.Idle s ∧
      t.K = ⟨be64 (d.toList.take 8), be64 (d.toList.drop 8)⟩ ∧ t.keyed = true ∧ t.var = v) ∨
    ((t.phase = .fault ∨ ∃ rest, s.port = .rst :: rest) ∧
      t.K = ⟨0#64, 0#64⟩ ∧ t.keyed = false ∧ t.var = .v0)

/-- R37, the read column of `K`: only INIT and FINAL read the key; every other command does the same whatever key is held. -/
def Obligations.OnlyInitAndFinalReadTheKey : Prop :=
  ∀ (i : Instr) (s t : State) (k : KeyReg), Claims.touchesKey i = false → s.phase ≠ .fault →
    exec i s = .next t →
    exec i { s with K := k } = .next (if t.phase = .fault then t else { t with K := k })

/-- R32, over every step of states that meet the invariant: ERR is 0 until the first fault, keeps the first cause until reset,
and reset clears it; it stands in bits 12:9 of `ST`. -/
def Obligations.ErrIsWrittenOnceUntilReset : Prop :=
  ∀ s t : State, s.Inv → step s = .next t →
    (∀ rest, s.port = .rst :: rest → t.err = .none) ∧
    (s.err ≠ .none → (∀ rest, s.port ≠ .rst :: rest) → t.err = s.err) ∧
    (s.err = .none → t.err ≠ .none → s.phase ≠ .fault ∧ t = Claims.faulted t.err t) ∧
    (s.st.extractLsb' 9 4).toNat = s.err.code

/-- R24: after every executed command `DOUTLEN` is the number of bytes it produces and every byte of `DOUT` beyond it is zero;
commands that produce no data leave all sixteen zero. -/
def Obligations.DoutHoldsTheProducedBytes : Prop :=
  ∀ (i : Instr) (s t : State), s.phase ≠ .fault → commandFault i s = none → exec i s = .next t →
    t.doutLen = bytesProduced s.var i ∧ t.doutLen ≤ 16 ∧
    (∀ (k : Nat) (h : k < 16), t.doutLen ≤ k → t.dout[k] = 0#8) ∧
    (bytesProduced s.var i = 0 → t.dout = Claims.noBytes)

/-- R41: the fields of the status word, for every `DOUTLEN` the register can hold; no bit of S, K or DOUT stands in it. -/
def Obligations.StatusWordHoldsTheFields : Prop :=
  ∀ s : State, s.doutLen ≤ 16 →
    (s.st.extractLsb' 0 3).toNat = s.phase.code ∧
    s.st.getLsbD 3 = s.keyed ∧
    s.st.getLsbD 4 = decide (s.var = .v1) ∧
    s.st.getLsbD 5 = decide (s.dir = .opening) ∧
    s.st.getLsbD 6 = s.tagValid ∧
    (s.st.extractLsb' 7 2).toNat = s.verdict.code ∧
    (s.st.extractLsb' 9 4).toNat = s.err.code ∧
    (s.st.extractLsb' 13 5).toNat = s.doutLen ∧
    s.st.extractLsb' 18 14 = 0#14 ∧
    ∀ (S' : Sponge) (K' : KeyReg) (d : Block), { s with S := S', K := K', dout := d }.st = s.st

/-- The invariant of 10_state.md R35 and its neighbours (Sys2Proof/Safety.lean) is kept by every step from every state that
meets it. -/
def Obligations.EveryStepKeepsTheInvariant : Prop :=
  ∀ s t : State, s.Inv → step s = .next t → t.Inv

/-- The invariant holds right after reset. -/
def Obligations.ResetStateMeetsTheInvariant : Prop := State.reset.Inv

/-- R56: two commands that differ only in operand bytes the command does not consume have the same effect. -/
def Obligations.UnusedOperandBytesAreIgnored : Prop :=
  ∀ (s : State) (cw : CmdWord) (d d' : Block),
    (∀ i, decode ⟨cw, d⟩ = .ok i →
      d.toList.take (bytesConsumed s.var i) = d'.toList.take (bytesConsumed s.var i)) →
    step (s.present ⟨cw, d⟩) = step (s.present ⟨cw, d'⟩)

/-- 70_reset_and_hazards.md R250: whether a command faults, and with which cause, is a function of `CW`, PHASE, DIR, TAGVALID,
KEYED and VAR only: not of S, K, DIN, DOUT or the verdict. -/
def Obligations.FaultsDependOnNoSecret : Prop :=
  ∀ (s s' : State) (cw : CmdWord) (d d' : Block) (x : Cause),
    s.phase ≠ .fault → s.phase = s'.phase → s.dir = s'.dir → s.tagValid = s'.tagValid →
    s.keyed = s'.keyed → s.var = s'.var →
    (step (s.present ⟨cw, d⟩) = .next (Claims.faulted x s) ↔
      step (s'.present ⟨cw, d'⟩) = .next (Claims.faulted x s'))

/-- R202: the causes a decoded command can raise. -/
def Obligations.CommandsRaiseOnlyTheirFaults : Prop :=
  ∀ (i : Instr) (s t : State), s.phase ≠ .fault → exec i s = .next t → t.phase = .fault →
    t.err ∈ possibleFaults i

/-! ### The cipher's laws -/

/-- R168: PASS exactly when all sixteen bytes agree, and whatever the two tags are, everything else the host can observe is
the same. -/
def Obligations.VerdictIsEqualityOfAllBytes : Prop :=
  ∀ (s : State) (S' : Sponge) (d d' : Block) (t t' : State),
    s.phase = .finalized → s.tagValid = true → s.dir = .opening →
    exec (.verify d) s = .next t → exec (.verify d') { s with S := S' } = .next t' →
    (t.verdict = .pass ↔ ∀ (k : Nat) (h : k < 16), (tagBytes s.S)[k]? = some d[k]) ∧
    (t.verdict = .fail ↔ ∃ (k : Nat) (h : k < 16), (tagBytes s.S)[k]? ≠ some d[k]) ∧
    { t' with verdict := t.verdict } = t ∧
    latency s.var (.verify d) = latency s.var (.verify d')

/-- 43_data.md R150, its first two sentences: decrypting what was just encrypted, from the same state with the direction
turned, returns the plaintext and leaves the same state. -/
def Obligations.DecryptionInvertsEncryption : Prop :=
  (∀ (s t : State) (p : Block), Claims.DataPhase s → s.dir = .sealing → exec (.enc p) s = .next t →
    exec (.dec t.dout) { s with dir := .opening } =
      .next { t with dir := .opening, dout := blockOf (p.toList.take (rate s.var)) }) ∧
  (∀ (s t : State) (n : Nat) (p : Block),
    Claims.DataPhase s → s.dir = .sealing → n < rate s.var → exec (.encl n p) s = .next t →
    exec (.decl n t.dout) { s with dir := .opening } =
      .next { t with dir := .opening, dout := blockOf (p.toList.take n) })

/-- 41_key_init.md R123 and R122: after INIT and after each AD command `S` depends on neither the direction nor, for INIT, on
what `S` held before. -/
def Obligations.CallStateIgnoresDirectionAndPast : Prop :=
  (∀ (s : State) (S' : Sponge) (r r' r₀ : Dir) (d : Block) (t t' : State), Claims.Idle s → s.keyed = true →
    exec (.init r d) s = .next t → exec (.init r' d) { s with S := S', dir := r₀ } = .next t' →
    t'.S = t.S ∧ t' = { t with dir := r' }) ∧
  (∀ (s : State) (r : Dir) (n : Nat) (d : Block) (t : State), s.phase ≠ .fault →
    (exec (.ad d) s = .next t → t.phase ≠ .fault →
      exec (.ad d) { s with dir := r } = .next { t with dir := r }) ∧
    (exec (.adl n d) s = .next t → t.phase ≠ .fault →
      exec (.adl n d) { s with dir := r } = .next { t with dir := r }))

/-- 10_state.md R21: no capacity word reaches the host while a call is in progress: what a data command puts into `DOUT` is the
same for two states that agree on the rate portion, and `ST` holds no bit of `S` or `K` (R41). -/
def Obligations.CapacityNeverReachesDout : Prop :=
  ∀ (i : Instr) (s t t' : State) (S' : Sponge) (K' : KeyReg), s.inCall = true →
    rateBytes s.var S' = rateBytes s.var s.S →
    exec i s = .next t → exec i { s with S := S', K := K' } = .next t' →
    t'.dout = t.dout ∧ t'.doutLen = t.doutLen ∧ t'.st = t.st

/-- R180: a well-formed call, issued in an idle phase with `KEYED = 1`, executes without a fault, and completes:
`callComplete` is the model's reading of R193 (assumption log 6). -/
def Obligations.WellFormedCallsCompleteWithoutFault : Prop :=
  ∀ (s : State) (nonce : Block) (m a : List Byte) (tag : Block), Claims.Idle s → s.keyed = true →
    (∃ t out, runAll (sealCall s.var nonce m a) s = .next (t, out) ∧
      t.callComplete = true ∧ t.dir = .sealing ∧ t.err = s.err ∧ t.K = s.K ∧ out.length = m.length + 16) ∧
    (∃ t out, runAll (openCall s.var nonce m tag a) s = .next (t, out) ∧
      t.callComplete = true ∧ t.dir = .opening ∧ t.err = s.err ∧ t.K = s.K ∧ out.length = m.length)

/-- 45_sequences.md R186, with R183's lengths: for both variants and all keys, nonces, plaintexts and associated data, opening
what was sealed returns the plaintext, with no error. -/
def Obligations.OpenOfSealIsThePlaintext : Prop :=
  ∀ (v : Variant) (key nonce : Block) (p a : List Byte),
    ∃ ct, sealMessage v key nonce p a = some ct ∧ ct.length = p.length + 16 ∧
      openMessage v key nonce ct a = some p

/-- R187, the sentence on a flipped tag bit: the right ciphertext with any other tag is an authentication failure. -/
def Obligations.WrongTagIsRejected : Prop :=
  ∀ (v : Variant) (key nonce : Block) (p a c tag tag' : List Byte),
    sealMessage v key nonce p a = some (c ++ tag) → tag.length = 16 → tag'.length = 16 → tag' ≠ tag →
    openMessage v key nonce (c ++ tag') a = none

/-- R191: a ciphertext shorter than a tag fails, for any key, nonce and AD. -/
def Obligations.ShortCiphertextFails : Prop :=
  ∀ (v : Variant) (key nonce : Block) (ct a : List Byte), ct.length < 16 →
    openMessage v key nonce ct a = none

/-- R105 and R185: a command that executes applies to `S` exactly the rounds the table of R105 gives it, between what it
does before them and after them; and the sums of that table over a well-formed call are R185's, sealing and opening, and
no command of a call that executes changes the `VAR` the sums are taken for. -/
def Obligations.CallRunsTheCountedRounds : Prop :=
  (∀ (i : Instr) (s : State), s.phase ≠ .fault → commandFault i s = none →
    ∃ t, exec i s = .next t ∧
      t.S = Claims.afterRounds i s (permute (roundsRun s.var i) (Claims.beforeRounds i s))) ∧
  (∀ (v : Variant) (nonce tag : Block) (m a : List Byte),
    totalRounds v (sealCall v nonce m a) =
      (if a = [] then 24 + m.length / rate v * nb v
       else 24 + (a.length / rate v + 1 + m.length / rate v) * nb v) ∧
    totalRounds v (openCall v nonce m tag a) = totalRounds v (sealCall v nonce m a)) ∧
  (∀ (v : Variant) (nonce tag : Block) (m a : List Byte) (i : Instr) (s t : State),
    i ∈ sealCall v nonce m a ∨ i ∈ openCall v nonce m tag a → exec i s = .next t → t.phase ≠ .fault →
      t.var = s.var)
end

