-- ==== Sys2Proof/Laws/Bytes.lean ====
section
/-! SUPPORT. Lengths and entries of the byte strings of the operand forms (20_memory.md R52 to R57). -/

namespace Sys2Proof.Machine

@[simp] theorem rate_v0 : rate .v0 = 8 := rfl
@[simp] theorem rate_v1 : rate .v1 = 16 := rfl
@[simp] theorem nb_v0 : nb .v0 = 6 := rfl
@[simp] theorem nb_v1 : nb .v1 = 8 := rfl
@[simp] theorem rw_v0 : rw .v0 = 1 := rfl
@[simp] theorem rw_v1 : rw .v1 = 2 := rfl
@[simp] theorem na_eq : na = 12 := rfl

theorem rate_le (v : Variant) : rate v ≤ 16 := by cases v <;> decide

theorem rate_pos (v : Variant) : 0 < rate v := by cases v <;> decide

@[simp] theorem bytesBe_length (w : Word) : (bytesBe w).length = 8 := rfl

@[simp] theorem rateBytes_length (v : Variant) (S : Sponge) : (rateBytes v S).length = rate v := by
  cases v <;> rfl

@[simp] theorem tagBytes_length (S : Sponge) : (tagBytes S).length = 16 := rfl

@[simp] theorem firstBytes_length (d : Block) (n : Nat) : (firstBytes d n).length = min n 16 := by
  simp [firstBytes]

@[simp] theorem xorBytes_length (a b : List Byte) : (xorBytes a b).length = min a.length b.length := by
  simp [xorBytes]

theorem pad_length (v : Variant) (m : List Byte) (h : m.length < rate v) : (pad v m).length = rate v := by
  simp [pad]; omega

theorem overwritePadded_length (c old : List Byte) (h : c.length < old.length) :
    (overwritePadded c old).length = old.length := by
  simp [overwritePadded]; omega

/-- Byte `k` of the sixteen: the string's, or zero beyond it (10_state.md R24). -/
@[simp] theorem blockOf_get (b : List Byte) (k : Nat) (h : k < 16) : (blockOf b)[k] = b.getD k 0 := by
  simp [blockOf]

/-- Beyond the string's length the sixteen bytes are zero (R24). -/
theorem blockOf_get_beyond (b : List Byte) (k : Nat) (h : k < 16) (hb : b.length ≤ k) :
    (blockOf b)[k] = 0#8 := by
  rw [blockOf_get, List.getD_eq_default _ _ hb]
  rfl

/-- Taking the string back out of the sixteen bytes it was put in. -/
theorem firstBytes_blockOf (b : List Byte) (h : b.length ≤ 16) : firstBytes (blockOf b) b.length = b := by
  apply List.ext_getElem
  · simp [h]
  · intro i h₁ h₂
    simp [firstBytes, blockOf, List.getElem?_eq_getElem h₂]

@[simp] theorem blockOf_nil : blockOf [] = zeroBlock := by decide

/-- The bytes a command takes of its operand depend on no byte beyond them (20_memory.md R56). -/
theorem firstBytes_firstBytes (d : Block) (m n : Nat) (h : m ≤ n) :
    (firstBytes d n).take m = firstBytes d m := by
  simp [firstBytes, List.take_take, Nat.min_eq_left h]

/-- Bit `i` of a word is bit `i mod 8` of the byte that holds it, counted from the string's front (00_scope.md R9). -/
theorem be64_bit (b : List Byte) (i : Nat) (h : i < 64) :
    (be64 b).getLsbD i = (b.getD (7 - i / 8) 0).getLsbD (i % 8) := by
  unfold be64
  simp only [BitVec.getLsbD_append]
  interval_cases i <;> rfl

/-- Bit `i` of byte `k` of a word (R9). -/
theorem bytesBe_bit (w : Word) (k i : Nat) (hk : k < 8) (hi : i < 8) :
    ((bytesBe w).getD k 0).getLsbD i = w.getLsbD (8 * (7 - k) + i) := by
  interval_cases k <;> simp [bytesBe, hi]

/-- XOR byte by byte is XOR of the words. -/
theorem be64_xor (a b : List Byte) (ha : 8 ≤ a.length) (hb : 8 ≤ b.length) :
    be64 (xorBytes a b) = be64 a ^^^ be64 b := by
  apply BitVec.eq_of_getLsbD_eq
  intro i hi
  have ha : 7 - i / 8 < a.length := by omega
  have hb : 7 - i / 8 < b.length := by omega
  simp only [BitVec.getLsbD_xor, be64_bit _ _ hi]
  simp [xorBytes, List.getD, List.getElem?_zipWith, List.getElem?_eq_getElem ha, List.getElem?_eq_getElem hb]

/-- A word is read from the first eight bytes of a string alone. -/
theorem be64_take (b : List Byte) : be64 (b.take 8) = be64 b := by simp [be64, List.getD]

end Sys2Proof.Machine
end

