-- ==== Sys2Proof/Laws/Engine.lean ====
section
/-! SUPPORT. The permutation engine by its parts: a list of rounds splits anywhere, and each step writes only the words it
names (40_permutation.md R93, R97, R99). -/

namespace Sys2Proof.Machine

@[simp] theorem rounds_nil (S : Sponge) : rounds [] S = S := rfl

@[simp] theorem rounds_cons (i : Nat) (is : List Nat) (S : Sponge) :
    rounds (i :: is) S = rounds is (round i S) := rfl

theorem rounds_append (a b : List Nat) (S : Sponge) : rounds (a ++ b) S = rounds b (rounds a S) := by
  simp [rounds, List.foldl_append]

@[simp] theorem diffuse_x0 (S : Sponge) : (diffuse S).x0 = diffuseWord params.rot0 S.x0 := rfl
@[simp] theorem diffuse_x1 (S : Sponge) : (diffuse S).x1 = diffuseWord params.rot1 S.x1 := rfl
@[simp] theorem diffuse_x2 (S : Sponge) : (diffuse S).x2 = diffuseWord params.rot2 S.x2 := rfl
@[simp] theorem diffuse_x3 (S : Sponge) : (diffuse S).x3 = diffuseWord params.rot3 S.x3 := rfl
@[simp] theorem diffuse_x4 (S : Sponge) : (diffuse S).x4 = diffuseWord params.rot4 S.x4 := rfl

/-- The record's formulas are the substitution layer (R94). -/
theorem substitute_eq (S : Sponge) : substitute S = substitutionFormulas S := rfl

/-- The record's direction is to the right (R97). -/
@[simp] theorem diffuseWord_eq (r : Rotations) (x : Word) :
    diffuseWord r x = x ^^^ ror64 x r.first ^^^ ror64 x r.second := rfl

/-- `ror64` is the library's rotation to the right, for the amounts R9 admits. -/
theorem ror64_eq_rotateRight (x : Word) (n : Nat) (h : n < 64) : ror64 x n = x.rotateRight n := by
  simp [ror64, BitVec.rotateRight, BitVec.rotateRightAux, Nat.mod_eq_of_lt h]

end Sys2Proof.Machine
end

