-- ==== Sys2Proof/Laws/State.lean ====
section
/-! SUPPORT. The fields of every named state update: one lemma per field per update, and the state words by index. -/

namespace Sys2Proof.Machine

/-! ### `putDout` -/

@[simp] theorem State.putDout_S (s : State) (b : List Byte) : (s.putDout b).S = s.S := rfl
@[simp] theorem State.putDout_K (s : State) (b : List Byte) : (s.putDout b).K = s.K := rfl
@[simp] theorem State.putDout_keyed (s : State) (b : List Byte) : (s.putDout b).keyed = s.keyed := rfl
@[simp] theorem State.putDout_var (s : State) (b : List Byte) : (s.putDout b).var = s.var := rfl
@[simp] theorem State.putDout_dir (s : State) (b : List Byte) : (s.putDout b).dir = s.dir := rfl
@[simp] theorem State.putDout_phase (s : State) (b : List Byte) : (s.putDout b).phase = s.phase := rfl
@[simp] theorem State.putDout_tagValid (s : State) (b : List Byte) : (s.putDout b).tagValid = s.tagValid := rfl
@[simp] theorem State.putDout_verdict (s : State) (b : List Byte) : (s.putDout b).verdict = s.verdict := rfl
@[simp] theorem State.putDout_err (s : State) (b : List Byte) : (s.putDout b).err = s.err := rfl
@[simp] theorem State.putDout_dout (s : State) (b : List Byte) : (s.putDout b).dout = blockOf b := rfl
@[simp] theorem State.putDout_doutLen (s : State) (b : List Byte) : (s.putDout b).doutLen = b.length := rfl
@[simp] theorem State.putDout_port (s : State) (b : List Byte) : (s.putDout b).port = s.port := rfl

/-! ### `clearDout` -/

@[simp] theorem State.clearDout_S (s : State) : (s.clearDout).S = s.S := rfl
@[simp] theorem State.clearDout_K (s : State) : (s.clearDout).K = s.K := rfl
@[simp] theorem State.clearDout_keyed (s : State) : (s.clearDout).keyed = s.keyed := rfl
@[simp] theorem State.clearDout_var (s : State) : (s.clearDout).var = s.var := rfl
@[simp] theorem State.clearDout_dir (s : State) : (s.clearDout).dir = s.dir := rfl
@[simp] theorem State.clearDout_phase (s : State) : (s.clearDout).phase = s.phase := rfl
@[simp] theorem State.clearDout_tagValid (s : State) : (s.clearDout).tagValid = s.tagValid := rfl
@[simp] theorem State.clearDout_verdict (s : State) : (s.clearDout).verdict = s.verdict := rfl
@[simp] theorem State.clearDout_err (s : State) : (s.clearDout).err = s.err := rfl
@[simp] theorem State.clearDout_dout (s : State) : (s.clearDout).dout = zeroBlock := rfl
@[simp] theorem State.clearDout_doutLen (s : State) : (s.clearDout).doutLen = 0 := rfl
@[simp] theorem State.clearDout_port (s : State) : (s.clearDout).port = s.port := rfl

/-! ### Fault entry (R210) -/

@[simp] theorem State.raise_S (s : State) (c : Cause) : (s.raise c).S = Sponge.zero := rfl
@[simp] theorem State.raise_K (s : State) (c : Cause) : (s.raise c).K = ⟨0#64, 0#64⟩ := rfl
@[simp] theorem State.raise_keyed (s : State) (c : Cause) : (s.raise c).keyed = false := rfl
@[simp] theorem State.raise_var (s : State) (c : Cause) : (s.raise c).var = .v0 := rfl
@[simp] theorem State.raise_dir (s : State) (c : Cause) : (s.raise c).dir = .sealing := rfl
@[simp] theorem State.raise_phase (s : State) (c : Cause) : (s.raise c).phase = .fault := rfl
@[simp] theorem State.raise_tagValid (s : State) (c : Cause) : (s.raise c).tagValid = false := rfl
@[simp] theorem State.raise_verdict (s : State) (c : Cause) : (s.raise c).verdict = .none := rfl
@[simp] theorem State.raise_err (s : State) (c : Cause) : (s.raise c).err = c := rfl
@[simp] theorem State.raise_dout (s : State) (c : Cause) : (s.raise c).dout = zeroBlock := rfl
@[simp] theorem State.raise_doutLen (s : State) (c : Cause) : (s.raise c).doutLen = 0 := rfl
@[simp] theorem State.raise_port (s : State) (c : Cause) : (s.raise c).port = s.port := rfl

/-! ### Reset (R230) -/

@[simp] theorem State.takeReset_S (s : State) : (s.takeReset).S = Sponge.zero := rfl
@[simp] theorem State.takeReset_K (s : State) : (s.takeReset).K = ⟨0#64, 0#64⟩ := rfl
@[simp] theorem State.takeReset_keyed (s : State) : (s.takeReset).keyed = false := rfl
@[simp] theorem State.takeReset_var (s : State) : (s.takeReset).var = .v0 := rfl
@[simp] theorem State.takeReset_dir (s : State) : (s.takeReset).dir = .sealing := rfl
@[simp] theorem State.takeReset_phase (s : State) : (s.takeReset).phase = .uninit := rfl
@[simp] theorem State.takeReset_tagValid (s : State) : (s.takeReset).tagValid = false := rfl
@[simp] theorem State.takeReset_verdict (s : State) : (s.takeReset).verdict = .none := rfl
@[simp] theorem State.takeReset_err (s : State) : (s.takeReset).err = .none := rfl
@[simp] theorem State.takeReset_dout (s : State) : (s.takeReset).dout = zeroBlock := rfl
@[simp] theorem State.takeReset_doutLen (s : State) : (s.takeReset).doutLen = 0 := rfl
@[simp] theorem State.takeReset_port (s : State) : (s.takeReset).port = s.port := rfl

/-! ### Presenting a command -/

@[simp] theorem State.present_S (s : State) (c : Command) : (s.present c).S = s.S := rfl
@[simp] theorem State.present_K (s : State) (c : Command) : (s.present c).K = s.K := rfl
@[simp] theorem State.present_keyed (s : State) (c : Command) : (s.present c).keyed = s.keyed := rfl
@[simp] theorem State.present_var (s : State) (c : Command) : (s.present c).var = s.var := rfl
@[simp] theorem State.present_dir (s : State) (c : Command) : (s.present c).dir = s.dir := rfl
@[simp] theorem State.present_phase (s : State) (c : Command) : (s.present c).phase = s.phase := rfl
@[simp] theorem State.present_tagValid (s : State) (c : Command) : (s.present c).tagValid = s.tagValid := rfl
@[simp] theorem State.present_verdict (s : State) (c : Command) : (s.present c).verdict = s.verdict := rfl
@[simp] theorem State.present_err (s : State) (c : Command) : (s.present c).err = s.err := rfl
@[simp] theorem State.present_dout (s : State) (c : Command) : (s.present c).dout = s.dout := rfl
@[simp] theorem State.present_doutLen (s : State) (c : Command) : (s.present c).doutLen = s.doutLen := rfl
@[simp] theorem State.present_port (s : State) (c : Command) : (s.present c).port = .command c :: s.port := rfl

/-! ### The state after reset (R42) -/

@[simp] theorem State.reset_S : State.reset.S = Sponge.zero := rfl
@[simp] theorem State.reset_K : State.reset.K = ⟨0#64, 0#64⟩ := rfl
@[simp] theorem State.reset_keyed : State.reset.keyed = false := rfl
@[simp] theorem State.reset_var : State.reset.var = .v0 := rfl
@[simp] theorem State.reset_dir : State.reset.dir = .sealing := rfl
@[simp] theorem State.reset_phase : State.reset.phase = .uninit := rfl
@[simp] theorem State.reset_tagValid : State.reset.tagValid = false := rfl
@[simp] theorem State.reset_verdict : State.reset.verdict = .none := rfl
@[simp] theorem State.reset_err : State.reset.err = .none := rfl
@[simp] theorem State.reset_dout : State.reset.dout = zeroBlock := rfl
@[simp] theorem State.reset_doutLen : State.reset.doutLen = 0 := rfl
@[simp] theorem State.reset_port : State.reset.port = [] := rfl

/-! ### Accepting an event (R62) -/

theorem State.accept_nil (s : State) (h : s.port = []) : s.accept = none := by simp [State.accept, h]

theorem State.accept_cons (s : State) (e : PortEvent) (rest : List PortEvent) (h : s.port = e :: rest) :
    s.accept = some (e, { s with port := rest }) := by simp [State.accept, h]

@[simp] theorem State.accept_present (s : State) (c : Command) :
    (s.present c).accept = some (.command c, s) := rfl

/-! ### State words by index (R20) -/

theorem Sponge.get_set_same (S : Sponge) (i : Nat) (w : Word) (h : i ≤ 4) : (S.set i w).get i = w := by
  interval_cases i <;> rfl

theorem Sponge.get_set_other (S : Sponge) (i j : Nat) (w : Word) (h : j ≠ i) :
    (S.set i w).get j = S.get j := by
  unfold Sponge.set
  split <;> unfold Sponge.get <;> split <;> simp_all

theorem Sponge.ext_get (S T : Sponge) (h : ∀ i ≤ 4, S.get i = T.get i) : S = T := by
  cases S; cases T
  have h0 := h 0 (by decide); have h1 := h 1 (by decide); have h2 := h 2 (by decide)
  have h3 := h 3 (by decide); have h4 := h 4 (by decide)
  simp_all [Sponge.get]

end Sys2Proof.Machine
end

