-- ==== Sys2Proof/Laws/Ops.lean ====
section
/-! SUPPORT. What the shared operations can do, said once: the order of checks, an atomic command, a decoded command, a
step (60_exceptions.md R203, R210, R212; 20_memory.md R58). -/

namespace Sys2Proof.Machine

/-! ### The checks (R203) -/

@[simp] theorem firstFailure_nil : firstFailure [] = none := rfl

@[simp] theorem firstFailure_cons (c : Check) (cs : List Check) :
    firstFailure (c :: cs) = if c.ok then firstFailure cs else some c.cause := rfl

theorem firstFailure_eq_none (cs : List Check) : firstFailure cs = none ↔ ∀ c ∈ cs, c.ok = true := by
  induction cs with
  | nil => simp
  | cons c cs ih => by_cases h : c.ok <;> simp [h, ih]

theorem firstFailure_eq_some (cs : List Check) (x : Cause) (h : firstFailure cs = some x) :
    ∃ c ∈ cs, c.ok = false ∧ c.cause = x := by
  induction cs with
  | nil => simp at h
  | cons c cs ih =>
    by_cases hc : c.ok
    · obtain ⟨d, hd, hx⟩ := ih (by simpa [hc] using h)
      exact ⟨d, List.mem_cons_of_mem _ hd, hx⟩
    · exact ⟨c, List.mem_cons_self, by simpa using hc, by simpa [hc] using h⟩

/-! ### One atomic command -/

theorem State.runCommand_in_fault (s : State) (cs : List Check) (t : State) (h : s.phase = .fault) :
    s.runCommand cs t = .next s := by simp [State.runCommand, h]

theorem State.runCommand_raises (s : State) (cs : List Check) (t : State) (c : Cause)
    (h : s.phase ≠ .fault) (hc : firstFailure cs = some c) : s.runCommand cs t = .next (s.raise c) := by
  simp [State.runCommand, h, hc]

theorem State.runCommand_executes (s : State) (cs : List Check) (t : State)
    (h : s.phase ≠ .fault) (hc : firstFailure cs = none) : s.runCommand cs t = .next t := by
  simp [State.runCommand, h, hc]

/-- Everything an atomic command can do. -/
theorem State.runCommand_cases (s : State) (cs : List Check) (t : State) :
    (s.phase = .fault ∧ s.runCommand cs t = .next s) ∨
    (s.phase ≠ .fault ∧ ∃ c, firstFailure cs = some c ∧ s.runCommand cs t = .next (s.raise c)) ∨
    (s.phase ≠ .fault ∧ firstFailure cs = none ∧ s.runCommand cs t = .next t) := by
  by_cases h : s.phase = .fault
  · exact .inl ⟨h, s.runCommand_in_fault cs t h⟩
  · cases hc : firstFailure cs with
    | none => exact .inr (.inr ⟨h, rfl, s.runCommand_executes cs t h hc⟩)
    | some c => exact .inr (.inl ⟨h, c, rfl, s.runCommand_raises cs t c h hc⟩)

/-! ### Each command as checks and a result -/

/-- The checks of a command, in the order it makes them (R203). -/
def checksOf (i : Instr) (s : State) : List Check :=
  match i with
  | .keyld _ _ => [s.checkPhase idlePhases]
  | .init _ _ => [s.checkPhase idlePhases, s.checkKeyed]
  | .ad _ => [s.checkPhase [.initialized, .absorbAd]]
  | .adl len _ => [s.checkPhase [.initialized, .absorbAd], s.checkLen len, s.checkAdNotEmpty len]
  | .enc _ => [s.checkPhase dataPhases, s.checkDir .sealing]
  | .encl len _ => [s.checkPhase dataPhases, s.checkDir .sealing, s.checkLen len]
  | .dec _ => [s.checkPhase dataPhases, s.checkDir .opening]
  | .decl len _ => [s.checkPhase dataPhases, s.checkDir .opening, s.checkLen len]
  | .final => [s.checkPhase [.dataDone]]
  | .rdtag => [s.checkPhase [.finalized], s.checkTag, s.checkDir .sealing]
  | .verify _ => [s.checkPhase [.finalized], s.checkTag, s.checkDir .opening]
  | .rawen => [s.checkPhase idlePhases]
  | .ldsw idx _ => [s.checkPhase [.raw], checkIndex idx]
  | .rdsw idx => [s.checkPhase [.raw], checkIndex idx]
  | .perm nr => [s.checkPhase [.raw], checkRounds nr]

/-- The state a command leaves when every check holds. -/
def resultOf (i : Instr) (s : State) : State :=
  match i with
  | .keyld var din =>
    { s.clearDout with
      K := keyOf din, keyed := true, var := var, dir := .sealing, S := Sponge.zero,
      tagValid := false, verdict := .none, phase := .uninit }
  | .init dir din =>
    { s.clearDout with
      dir := dir, tagValid := false, verdict := .none,
      S := xorKeyLast s.K (permute na (initialSponge s.var s.K din)), phase := .initialized }
  | .ad din =>
    { s.clearDout with
      S := permute (nb s.var) (xorRate s.var (firstBytes din (rate s.var)) s.S), phase := .absorbAd }
  | .adl len din =>
    { s.clearDout with
      S := domainSeparate (permute (nb s.var) (xorRate s.var (pad s.var (firstBytes din len)) s.S)),
      phase := .procData }
  | .enc din =>
    { s.putDout (rateBytes s.var (xorRate s.var (firstBytes din (rate s.var)) s.dataEntry)) with
      S := permute (nb s.var) (xorRate s.var (firstBytes din (rate s.var)) s.dataEntry),
      phase := .procData }
  | .encl len din =>
    { s.putDout ((rateBytes s.var (xorRate s.var (pad s.var (firstBytes din len)) s.dataEntry)).take len) with
      S := xorRate s.var (pad s.var (firstBytes din len)) s.dataEntry, phase := .dataDone }
  | .dec din =>
    { s.putDout (xorBytes (firstBytes din (rate s.var)) (rateBytes s.var s.dataEntry)) with
      S := permute (nb s.var) (setRateBytes s.var (firstBytes din (rate s.var)) s.dataEntry),
      phase := .procData }
  | .decl len din =>
    { s.putDout (xorBytes (firstBytes din len) (rateBytes s.var s.dataEntry)) with
      S := setRateBytes s.var (overwritePadded (firstBytes din len) (rateBytes s.var s.dataEntry)) s.dataEntry,
      phase := .dataDone }
  | .final =>
    { s.clearDout with
      S := xorKeyLast s.K (permute na (xorKeyAfterRate s.var s.K s.S)), tagValid := true,
      phase := .finalized }
  | .rdtag => s.putDout (tagBytes s.S)
  | .verify din =>
    { s.clearDout with
      verdict := verdictOf (tagBytes s.S) din.toList, tagValid := false, S := Sponge.zero }
  | .rawen =>
    { s.clearDout with S := Sponge.zero, tagValid := false, verdict := .none, phase := .raw }
  | .ldsw idx din => { s.clearDout with S := s.S.set idx (word0 din) }
  | .rdsw idx => s.putDout (bytesBe (s.S.get idx))
  | .perm nr => { s.clearDout with S := permute nr s.S }

/-- Every command is one atomic transition over its checks and its result. -/
theorem exec_eq_runCommand (i : Instr) (s : State) :
    exec i s = s.runCommand (checksOf i s) (resultOf i s) := by
  cases i <;> rfl

/-- A command always answers a next state: no data value, phase or field stops the model. -/
theorem exec_answers_next (i : Instr) (s : State) : ∃ t, exec i s = .next t := by
  rw [exec_eq_runCommand]
  obtain ⟨-, h⟩ | ⟨-, c, -, h⟩ | ⟨-, -, h⟩ := s.runCommand_cases (checksOf i s) (resultOf i s)
  all_goals exact ⟨_, h⟩

/-- Everything a command can do: nothing in phase FAULT, one fault, or its result. -/
theorem exec_cases (i : Instr) (s t : State) (h : exec i s = .next t) :
    (s.phase = .fault ∧ t = s) ∨
    (s.phase ≠ .fault ∧ ∃ c, firstFailure (checksOf i s) = some c ∧ t = s.raise c) ∨
    (s.phase ≠ .fault ∧ firstFailure (checksOf i s) = none ∧ t = resultOf i s) := by
  rw [exec_eq_runCommand] at h
  obtain ⟨hp, e⟩ | ⟨hp, c, hc, e⟩ | ⟨hp, hc, e⟩ := s.runCommand_cases (checksOf i s) (resultOf i s) <;>
    rw [e] at h <;> cases h
  · exact .inl ⟨hp, rfl⟩
  · exact .inr (.inl ⟨hp, c, hc, rfl⟩)
  · exact .inr (.inr ⟨hp, hc, rfl⟩)

/-! ### A step -/

/-- Everything a step can do: wait, reset, execute a decoded command, or meet an illegal word. -/
theorem step_cases (s t : State) (h : step s = .next t) :
    (s.port = [] ∧ t = s) ∨
    (∃ rest, s.port = .rst :: rest ∧ t = State.takeReset { s with port := rest }) ∨
    (∃ c rest i, s.port = .command c :: rest ∧ decode c = .ok i ∧ exec i { s with port := rest } = .next t) ∨
    (∃ c rest e, s.port = .command c :: rest ∧ decode c = .error e ∧
      t = State.illegalCommand { s with port := rest }) := by
  unfold step at h
  cases hp : s.port with
  | nil =>
    rw [s.accept_nil hp] at h
    cases h
    exact .inl ⟨rfl, rfl⟩
  | cons e rest =>
    rw [s.accept_cons e rest hp] at h
    cases e with
    | rst => cases h; exact .inr (.inl ⟨rest, rfl, rfl⟩)
    | command c =>
      cases hd : decode c with
      | ok i => exact .inr (.inr (.inl ⟨c, rest, i, rfl, hd, by simpa [hd] using h⟩))
      | error e =>
        simp only [hd] at h
        cases h
        exact .inr (.inr (.inr ⟨c, rest, e, rfl, hd, rfl⟩))

/-- A step always answers a next state (93_implementation_defined.md: nothing is `stuck`). -/
theorem step_answers_next (s : State) : ∃ t, step s = .next t := by
  unfold step
  cases s.accept with
  | none => exact ⟨_, rfl⟩
  | some p =>
    obtain ⟨e, s'⟩ := p
    cases e with
    | rst => exact ⟨_, rfl⟩
    | command c =>
      cases hd : decode c with
      | ok i => simpa [hd] using exec_answers_next i s'
      | error e => exact ⟨_, by simp only [hd]; rfl⟩

end Sys2Proof.Machine
end

