-- ==== Sys2Proof/Laws/PerInstr.lean ====
section
/-! SUPPORT. The family OpcodeField, one lemma per constructor: a command's encoded word carries its opcode number in `OPC`
and zero in `ZERO` (30_encoding.md R71, R74). -/

namespace Sys2Proof.Laws.OpcodeField

open Sys2Proof

/-- The encoded word of a well-formed command has the command's number in bits 3:0 and zeros in bits 31:18 (R71). -/
def Statement (i : Instr) : Prop :=
  i.wellFormed = true → cwOpc (encode i).cw = i.opc ∧ cwZero (encode i).cw = 0

/-- A word packed from an opcode and at most one field in its range has that opcode and no bit above the fields. -/
abbrev Fits (opc len var dir nr idx : Nat) : Prop :=
  cwOpc (packCw opc len var dir nr idx) = opc ∧ cwZero (packCw opc len var dir nr idx) = 0

theorem fits_plain : ∀ o : Fin 16, Fits o 0 0 0 0 0 := by decide

theorem fits_len4 : ∀ n : Fin 32, Fits 4 n 0 0 0 0 := by decide

theorem fits_len6 : ∀ n : Fin 32, Fits 6 n 0 0 0 0 := by decide

theorem fits_len8 : ∀ n : Fin 32, Fits 8 n 0 0 0 0 := by decide

theorem fits_nr : ∀ n : Fin 16, Fits 15 0 0 0 n 0 := by decide

theorem fits_idx13 : ∀ n : Fin 8, Fits 13 0 0 0 0 n := by decide

theorem fits_idx14 : ∀ n : Fin 8, Fits 14 0 0 0 0 n := by decide

theorem fits_var : ∀ v : Fin 2, Fits 1 0 v 0 0 0 := by decide

theorem fits_dir : ∀ d : Fin 2, Fits 2 0 0 d 0 0 := by decide

theorem keyld (v : Variant) (d : Block) : Statement (.keyld v d) := by
  intro _; cases v
  · exact fits_var 0
  · exact fits_var 1

theorem init (r : Dir) (d : Block) : Statement (.init r d) := by
  intro _; cases r
  · exact fits_dir 0
  · exact fits_dir 1

theorem ad (d : Block) : Statement (.ad d) := fun _ => fits_plain 3

theorem adl (n : Nat) (d : Block) : Statement (.adl n d) := fun h =>
  fits_len4 ⟨n, by simpa [Instr.wellFormed] using h⟩

theorem enc (d : Block) : Statement (.enc d) := fun _ => fits_plain 5

theorem encl (n : Nat) (d : Block) : Statement (.encl n d) := fun h =>
  fits_len6 ⟨n, by simpa [Instr.wellFormed] using h⟩

theorem dec (d : Block) : Statement (.dec d) := fun _ => fits_plain 7

theorem decl (n : Nat) (d : Block) : Statement (.decl n d) := fun h =>
  fits_len8 ⟨n, by simpa [Instr.wellFormed] using h⟩

theorem final : Statement .final := fun _ => fits_plain 9

theorem rdtag : Statement .rdtag := fun _ => fits_plain 10

theorem verify (d : Block) : Statement (.verify d) := fun _ => fits_plain 11

theorem rawen : Statement .rawen := fun _ => fits_plain 12

theorem ldsw (n : Nat) (d : Block) : Statement (.ldsw n d) := fun h =>
  fits_idx13 ⟨n, by simpa [Instr.wellFormed] using h⟩

theorem rdsw (n : Nat) : Statement (.rdsw n) := fun h =>
  fits_idx14 ⟨n, by simpa [Instr.wellFormed] using h⟩

theorem perm (n : Nat) : Statement (.perm n) := fun h =>
  fits_nr ⟨n, by simpa [Instr.wellFormed] using h⟩

end Sys2Proof.Laws.OpcodeField
end

