-- ==== Sys2Proof/Laws/Sequences.lean ====
section
/-! SUPPORT. Running a list of commands (45_sequences.md R193): one command at a time, and one list after another. -/

namespace Sys2Proof.Machine

@[simp] theorem runAll_nil (s : State) : runAll [] s = .next (s, []) := rfl

/-- A list whose first command answers `t` goes on from `t`. -/
theorem runAll_cons {i : Instr} {is : List Instr} {s t u : State} {out : List Byte} (h : exec i s = .next t)
    (hs : runAll is t = .next (u, out)) : runAll (i :: is) s = .next (u, t.doutBytes ++ out) := by
  simp only [runAll, h, hs]

/-- Two lists, one after the other: the bytes are joined. -/
theorem runAll_append {is js : List Instr} {s t u : State} {a b : List Byte} (h : runAll is s = .next (t, a))
    (hj : runAll js t = .next (u, b)) : runAll (is ++ js) s = .next (u, a ++ b) := by
  induction is generalizing s a with
  | nil => cases h; simpa using hj
  | cons i is ih =>
    obtain ⟨m, hm⟩ := exec_answers_next i s
    simp only [runAll, hm] at h
    cases hr : runAll is m with
    | next p =>
      obtain ⟨v, c⟩ := p
      rw [hr] at h
      cases h
      simpa using runAll_cons hm (ih hr)
    | fault f => cases f
    | refused r => rw [hr] at h; cases h

end Sys2Proof.Machine
end

