-- ==== Sys2Proof/Tests/Slice0.lean ====
section
/-! SUPPORT. The model's own tests: command words written out from 30_encoding.md, one step on a small state against the
worked examples of the command rules and of 95_test_vectors.md, and for each statement with hypotheses a state and operands
that meet them. -/

namespace Sys2Proof.Tests

open Sys2Proof Sys2Proof.Machine

/-! ### Small states and operands -/

/-- `00 01 .. 0f`, the key and nonce of the spec's examples. -/
def ramp : Block := blockOf [0, 1, 2, 3, 4, 5, 6, 7, 8, 9, 10, 11, 12, 13, 14, 15]

/-- The key register after `KEYLD` of `ramp` (20_memory.md R53). -/
def rampKey : KeyReg := ⟨0x0001020304050607, 0x08090A0B0C0D0E0F⟩

/-- A core keyed with `ramp`, in the given variant, direction and phase, holding `S`. -/
def keyedCore (v : Variant) (d : Dir) (p : Phase) (S : Sponge) : State :=
  { State.reset with K := rampKey, keyed := true, var := v, dir := d, phase := p, S := S }

/-- The same with the tag there, in phase FINALIZED. -/
def tagCore (v : Variant) (d : Dir) (S : Sponge) : State :=
  { keyedCore v d .finalized S with tagValid := true }

/-- A core in raw mode. -/
def rawCore (S : Sponge) : State := { State.reset with phase := .raw, S := S }

/-- The state a command answers with, if it answers a next state. -/
def after (o : Host.Outcome State Fault Refusal) : Option State :=
  match o with
  | .next t => some t
  | .fault _ => none
  | .refused _ => none

/-- `S` after INIT for V0 with `ramp` (41_key_init.md R122). -/
def afterInit0 : Sponge :=
  ⟨0xbc830fbef3a1651b, 0x487a66865036b909, 0xa031b0c5810c1cd6, 0xdd7ce72083702217, 0x9b17156ede557ce7⟩

/-- `S` after FINAL for V0, empty AD and plaintext (44_final_tag.md R160). -/
def afterFinal0 : Sponge :=
  ⟨0x318951aa8731d1ae, 0xdcd1ad55dc02c52c, 0xa9bdc1fa5ebde2cb, 0xe355159f292911f7, 0x94cb1432a0103a8a⟩

/-- `S` after `ENCL 0` on `afterInit0` (95_test_vectors.md, P1). -/
def afterEncl0 : Sponge :=
  ⟨0x3c830fbef3a1651b, 0x487a66865036b909, 0xa031b0c5810c1cd6, 0xdd7ce72083702217, 0x9b17156ede557ce6⟩

/-- The test state `P` of 95_test_vectors.md section 3. -/
def stateP : Sponge :=
  ⟨0x0123456789abcdef, 0xfedcba9876543210, 0x0f1e2d3c4b5a6978, 0x8796a5b4c3d2e1f0, 0xdeadbeefcafef00d⟩

/-! ### Ill-formed commands are refused (R71) -/

theorem test_wellFormed_refuses_wide_fields :
    (Instr.adl 32 ramp).wellFormed = false ∧ (Instr.encl 32 ramp).wellFormed = false ∧
    (Instr.decl 32 ramp).wellFormed = false ∧ (Instr.ldsw 8 ramp).wellFormed = false ∧
    (Instr.rdsw 8).wellFormed = false ∧ (Instr.perm 16).wellFormed = false := by decide

theorem test_wellFormed_admits_full_fields :
    (Instr.adl 31 ramp).wellFormed = true ∧ (Instr.ldsw 7 ramp).wellFormed = true ∧
    (Instr.perm 15).wellFormed = true := by decide

/-! ### Decoding words of 95_test_vectors.md section 7 -/

theorem test_decode_keyld : decodeTableWord 32 0x00000201 = some (.keyld .v1 zeroBlock) := by decide
theorem test_decode_init : decodeTableWord 32 0x00000402 = some (.init .opening zeroBlock) := by decide
theorem test_decode_ad : decodeTableWord 32 0x00000003 = some (.ad zeroBlock) := by decide
theorem test_decode_adl : decodeTableWord 32 0x000000F4 = some (.adl 15 zeroBlock) := by decide
theorem test_decode_enc : decodeTableWord 32 0x00000005 = some (.enc zeroBlock) := by decide
theorem test_decode_encl : decodeTableWord 32 0x00000086 = some (.encl 8 zeroBlock) := by decide
theorem test_decode_dec : decodeTableWord 32 0x00000007 = some (.dec zeroBlock) := by decide
theorem test_decode_decl : decodeTableWord 32 0x00000018 = some (.decl 1 zeroBlock) := by decide
theorem test_decode_final : decodeTableWord 32 0x00000009 = some .final := by decide
theorem test_decode_rdtag : decodeTableWord 32 0x0000000A = some .rdtag := by decide
theorem test_decode_verify : decodeTableWord 32 0x0000000B = some (.verify zeroBlock) := by decide
theorem test_decode_rawen : decodeTableWord 32 0x0000000C = some .rawen := by decide
theorem test_decode_ldsw : decodeTableWord 32 0x0003800D = some (.ldsw 7 zeroBlock) := by decide
theorem test_decode_rdsw : decodeTableWord 32 0x0001800E = some (.rdsw 3) := by decide
theorem test_decode_perm : decodeTableWord 32 0x0000680F = some (.perm 13) := by decide

/-- Operand bytes follow the word: `DIN[0]` is bits 39..32 (assumption log 3). -/
theorem test_decode_operand_bytes :
    decodeTableWord 160 (0x00000014 + 0x08 <<< 32 + 0xAB <<< 152) =
      some (.adl 1 (blockOf [8, 0, 0, 0, 0, 0, 0, 0, 0, 0, 0, 0, 0, 0, 0, 0xAB])) := by decide

/-- The illegal words of section 7. -/
theorem test_decode_illegal :
    [0x00000000, 0x00000010, 0x00000013, 0x00000203, 0x00000401, 0x00000202, 0x00000809, 0x0000080D,
      0x0000020F, 0x00008006, 0x00040001, 0x8000000C, 0xFFFFFFFF].map (decodeTableWord 32) =
      List.replicate 13 none := by decide

/-- R75's classes by name. -/
theorem test_decode_reasons :
    rejectReason 0x00000000 = .opcZero ∧ rejectReason 0x8000000C = .zeroField ∧
    rejectReason 0x00008006 = .unusedField := by decide

theorem test_encode_words :
    (encode (.keyld .v1 ramp)).cw = 0x00000201 ∧ (encode (.init .opening ramp)).cw = 0x00000402 ∧
    (encode (.adl 31 ramp)).cw = 0x000001F4 ∧ (encode (.encl 15 ramp)).cw = 0x000000F6 ∧
    (encode (.rdsw 3)).cw = 0x0001800E ∧ (encode (.perm 12)).cw = 0x0000600F := by decide

/-- The written forms of 30_encoding.md R77. -/
theorem test_asm_forms :
    asm .v0 (.adl 1 (blockOf [8])) = "ADL 1, 08" ∧ asm .v0 (.encl 0 ramp) = "ENCL 0" ∧
    asm .v0 (.ad ramp) = "AD 0001020304050607" ∧ asm .v1 .final = "FINAL" ∧
    asm .v0 (.ldsw 2 (blockOf [0x0f, 0x1e, 0x2d, 0x3c, 0x4b, 0x5a, 0x69, 0x78])) =
      "LDSW 2, 0f1e2d3c4b5a6978" := by decide

/-! ### The engine (95_test_vectors.md section 3) -/

theorem test_substitute_P :
    substitute stateP =
      ⟨0xa7e7e5e777736767, 0x26446424fedbe60a, 0x56147210caddb49a, 0xa8f9c8dbb4a18697, 0x796b1b4b3d2c13ed⟩ := by
  decide

/-- The column value `v` at bit 0 of the state (R95). -/
def columnState (v : Nat) : Sponge :=
  ⟨BitVec.ofNat 64 (v / 16 % 2), BitVec.ofNat 64 (v / 8 % 2), BitVec.ofNat 64 (v / 4 % 2), BitVec.ofNat 64 (v / 2 % 2),
    BitVec.ofNat 64 (v % 2)⟩

/-- The record's formulas give, on all 32 column values, the table of R95 in decimal, and the record's table is that one. -/
theorem test_sbox_of_the_record :
    (List.range 32).map (fun v => column (substitute (columnState v)) 0) =
      [4, 11, 31, 20, 26, 21, 9, 2, 27, 5, 8, 18, 29, 3, 6, 28,
       30, 19, 7, 14, 0, 13, 17, 24, 16, 12, 1, 25, 22, 10, 15, 23] ∧
    params.sbox = (List.range 32).map (fun v => column (substitute (columnState v)) 0) := by decide

/-- R97's worked examples: a word with only bit 0 set. -/
theorem test_diffuse_one_bit :
    diffuse ⟨1, 1, 1, 1, 1⟩ =
      ⟨0x0000201000000001, 0x0000000002000009, 0x8400000000000001, 0x0040800000000001, 0x0200000000800001⟩ := by
  decide

theorem test_diffuse_P :
    diffuse stateP =
      ⟨0xe2227bb3f3336aa2, 0x38d5c63fe5081be2, 0xe8ad43169fda3461, 0x8b4f03d6fc3874a1, 0xb2f59aea13845b32⟩ := by
  decide

theorem test_permute_8_P :
    permute 8 stateP =
      ⟨0x4d3a8af75c2585e6, 0xdc7ea3a6e7f954bd, 0x8097a30dc4c09c60, 0x8cd1f98a790c75c9, 0x69b8fa77042775e0⟩ := by
  decide

/-! ### One step of each command -/

/-- R120's example. -/
theorem test_keyld_v1 :
    (after (exec (.keyld .v1 ramp) State.reset)).map (fun t => (t.K, t.st)) = some (rampKey, 0x00000018) := by
  decide

/-- A key load during a call is a fault (R120). -/
theorem test_keyld_in_call :
    (after (exec (.keyld .v0 ramp) (keyedCore .v0 .sealing .procData afterInit0))).map
      (fun t => (t.K, t.st)) = some (⟨0, 0⟩, 0x00000407) := by decide

/-- R122's example, V0. -/
theorem test_init_v0 :
    (after (exec (.init .sealing ramp) (keyedCore .v0 .sealing .uninit Sponge.zero))).map
      (fun t => (t.S, t.st)) = some (afterInit0, 0x00000009) := by decide

/-- R122's example, V1, from a state with old words in `S`, which have no influence; ST from program P3b. -/
theorem test_init_v1_open :
    (after (exec (.init .opening ramp) (keyedCore .v1 .sealing .raw stateP))).map (fun t => (t.S, t.st)) =
      some (⟨0x6e480efdd1b65260, 0x6f3c06d33047c1b2, 0x63a829beb8aad370, 0xa282e964b4b757ec,
        0x03bf3b375a49ae6d⟩, 0x00000039) := by decide

/-- R131's example. -/
theorem test_ad_v0 :
    (after (exec (.ad ramp) (keyedCore .v0 .sealing .initialized afterInit0))).map (fun t => (t.S, t.st)) =
      some (⟨0xd015c632823325af, 0x840b85e4356c5f73, 0xeda0de0887360c6f, 0x9397b9cdf9fc944d,
        0xcb32d71ab8f0d738⟩, 0x0000000A) := by decide

/-- P3a's AD: eight rounds on a sixteen-byte block. -/
theorem test_ad_v1 :
    (after (exec (.ad ramp) (keyedCore .v1 .sealing .initialized
      ⟨0x6e480efdd1b65260, 0x6f3c06d33047c1b2, 0x63a829beb8aad370, 0xa282e964b4b757ec, 0x03bf3b375a49ae6d⟩))).map
      (fun t => t.S) =
      some ⟨0x40e86dc599ee094b, 0x0780045485f506b1, 0xbe22a3c5cbbbe011, 0x13898239be608a1b,
        0x9f8f7e20b5622fb3⟩ := by decide

/-- R133's example. -/
theorem test_adl_1 :
    (after (exec (.adl 1 (blockOf [8])) (keyedCore .v0 .sealing .absorbAd
      ⟨0xd015c632823325af, 0x840b85e4356c5f73, 0xeda0de0887360c6f, 0x9397b9cdf9fc944d, 0xcb32d71ab8f0d738⟩))).map
      (fun t => (t.S, t.st)) =
      some (⟨0x322400669db9d2fb, 0x95644d2d78707d45, 0x75c7c82a10a20ada, 0x82dfcbe14fca292f,
        0x6a309f2678546af3⟩, 0x0000000B) := by decide

/-- Fault vector F3: an empty AD may not be padded. -/
theorem test_adl_0_after_init :
    (after (exec (.adl 0 ramp) (keyedCore .v0 .sealing .initialized afterInit0))).map (fun t => (t.S, t.st)) =
      some (Sponge.zero, 0x00000807) := by decide

/-- R141's example. -/
theorem test_enc_v0 :
    (after (exec (.enc ramp) (keyedCore .v0 .sealing .procData
      ⟨0x322400669db9d2fb, 0x95644d2d78707d45, 0x75c7c82a10a20ada, 0x82dfcbe14fca292f, 0x6a309f2678546af3⟩))).map
      (fun t => (t.S, t.doutBytes)) =
      some (⟨0xcc69121e79f7931b, 0xe642f65a73bd560a, 0x59c1bc3db746f9f1, 0xd8dcda5d461a9da0,
        0xf4d5469ce9b6a8aa⟩, [0x32, 0x25, 0x02, 0x65, 0x99, 0xbc, 0xd4, 0xfc]) := by decide

/-- ENC in an open call is out of phase (R205). -/
theorem test_enc_in_open_call :
    (after (exec (.enc ramp) (keyedCore .v0 .opening .procData stateP))).map (fun t => t.st) =
      some 0x00000407 := by decide

/-- R143's example for V1. -/
theorem test_encl_1 :
    (after (exec (.encl 1 (blockOf [0x10])) (keyedCore .v1 .sealing .procData
      ⟨0x8b3cf8ca1720b1c2, 0x5c4b9827fc1dfa5b, 0x830db4f448e631e0, 0x8907ea0d2db34e7c, 0x8c9666a0ec79d945⟩))).map
      (fun t => (t.S.x0, t.doutBytes, t.st)) = some (0x9bbcf8ca1720b1c2, [0x9b], 0x0000201D) := by decide

/-- P1: `ENCL 0` straight after INIT applies the domain-separation bit and the pad. -/
theorem test_encl_0_empty_ad :
    (after (exec (.encl 0 ramp) (keyedCore .v0 .sealing .initialized afterInit0))).map
      (fun t => (t.S.x0, t.S.x4, t.st)) = some (0x3c830fbef3a1651b, 0x9b17156ede557ce6, 0x0000000D) := by decide

/-- R145's example. -/
theorem test_dec_v1 :
    (after (exec (.dec (blockOf [0x52, 0x49, 0x9a, 0xc9, 0xc8, 0x43, 0x23, 0xa4, 0xae, 0x24, 0xea, 0xec, 0xcf, 0x45,
      0xc1, 0x37])) (keyedCore .v1 .opening .procData
      ⟨0x524898cacc4625a3, 0xa62de0e7c348cf38, 0xb3ae6fa370070ab6, 0x79117d25a03fe7d0, 0xecf2f37f4310a7ff⟩))).map
      (fun t => (t.S, t.dout)) =
      some (⟨0x8b3cf8ca1720b1c2, 0x5c4b9827fc1dfa5b, 0x830db4f448e631e0, 0x8907ea0d2db34e7c,
        0x8c9666a0ec79d945⟩, ramp) := by decide

/-- Fault vector F7. -/
theorem test_dec_in_seal_call :
    (after (exec (.dec ramp) (keyedCore .v0 .sealing .initialized afterInit0))).map (fun t => t.st) =
      some 0x00000407 := by decide

/-- R147's example. -/
theorem test_decl_1 :
    (after (exec (.decl 1 (blockOf [0x9b])) (keyedCore .v1 .opening .procData
      ⟨0x8b3cf8ca1720b1c2, 0x5c4b9827fc1dfa5b, 0x830db4f448e631e0, 0x8907ea0d2db34e7c, 0x8c9666a0ec79d945⟩))).map
      (fun t => (t.S.x0, t.doutBytes, t.st)) = some (0x9bbcf8ca1720b1c2, [0x10], 0x0000203D) := by decide

/-- R206: `LEN = RATE` is no long partial block. -/
theorem test_decl_rate :
    (after (exec (.decl 8 ramp) (keyedCore .v0 .opening .procData stateP))).map (fun t => t.st) =
      some 0x00000807 := by decide

/-- R160's example. -/
theorem test_final_v0 :
    (after (exec .final (keyedCore .v0 .sealing .dataDone
      ⟨0x3c830fbef3a1651b, 0x487a66865036b909, 0xa031b0c5810c1cd6, 0xdd7ce72083702217, 0x9b17156ede557ce6⟩))).map
      (fun t => (t.S, t.st)) = some (afterFinal0, 0x0000004C) := by decide

/-- P3d's FINAL, V1: the key goes into `S[2], S[3]`. -/
theorem test_final_v1 :
    (after (exec .final (keyedCore .v1 .sealing .dataDone
      ⟨0xee480efdd1b65260, 0x6f3c06d33047c1b2, 0x63a829beb8aad370, 0xa282e964b4b757ec, 0x03bf3b375a49ae6c⟩))).map
      (fun t => (t.S.x3, t.S.x4)) = some (0x7a834e6f09210957, 0x067b10fd831f0078) := by decide

/-- R163's example. -/
theorem test_rdtag :
    (after (exec .rdtag (tagCore .v0 .sealing afterFinal0))).map (fun t => (t.doutBytes, t.st)) =
      some ([0xe3, 0x55, 0x15, 0x9f, 0x29, 0x29, 0x11, 0xf7, 0x94, 0xcb, 0x14, 0x32, 0xa0, 0x10, 0x3a, 0x8a],
        0x0002004C) := by decide

/-- Fault vector F10: the computed tag of an open call is never output. -/
theorem test_rdtag_in_open_call :
    (after (exec .rdtag (tagCore .v0 .opening afterFinal0))).map (fun t => (t.S, t.st)) =
      some (Sponge.zero, 0x00000407) := by decide

/-- R166's example, PASS. -/
theorem test_verify_pass :
    (after (exec (.verify (blockOf [0xe3, 0x55, 0x15, 0x9f, 0x29, 0x29, 0x11, 0xf7, 0x94, 0xcb, 0x14, 0x32, 0xa0, 0x10,
      0x3a, 0x8a])) (tagCore .v0 .opening afterFinal0))).map (fun t => (t.S, t.st)) =
      some (Sponge.zero, 0x000000AC) := by decide

/-- R166's example, FAIL: the last bit of the tag differs. -/
theorem test_verify_fail :
    (after (exec (.verify (blockOf [0xe3, 0x55, 0x15, 0x9f, 0x29, 0x29, 0x11, 0xf7, 0x94, 0xcb, 0x14, 0x32, 0xa0, 0x10,
      0x3a, 0x8b])) (tagCore .v0 .opening afterFinal0))).map (fun t => (t.S, t.st)) =
      some (Sponge.zero, 0x0000012C) := by decide

/-- R101's example, and P5: the key survives. -/
theorem test_rawen :
    (after (exec .rawen State.reset)).map (fun t => t.st) = some 0x00000006 ∧
    (after (exec .rawen (keyedCore .v0 .sealing .uninit Sponge.zero))).map (fun t => (t.K, t.st)) =
      some (rampKey, 0x0000000E) := by decide

/-- R102's example. -/
theorem test_ldsw_2 :
    (after (exec (.ldsw 2 (blockOf [0x0f, 0x1e, 0x2d, 0x3c, 0x4b, 0x5a, 0x69, 0x78])) (rawCore Sponge.zero))).map
      (fun t => t.S) = some ⟨0, 0, 0x0F1E2D3C4B5A6978, 0, 0⟩ := by decide

/-- Fault vector F15. -/
theorem test_ldsw_outside_raw :
    (after (exec (.ldsw 0 ramp) State.reset)).map (fun t => t.st) = some 0x00000407 := by decide

/-- R103's example. -/
theorem test_perm_12 :
    (after (exec (.perm 12) (rawCore Sponge.zero))).map (fun t => t.S) =
      some ⟨0x78ea7ae5cfebb108, 0x9b9bfb8513b560f7, 0x6937f83e03d11a50, 0x3fe53f36f2c1178c,
        0x045d648e4def12c9⟩ := by decide

/-- Fault vector F8. -/
theorem test_perm_13 :
    (after (exec (.perm 13) (rawCore stateP))).map (fun t => t.st) = some 0x00000A07 := by decide

/-- R104's example, the last word. -/
theorem test_rdsw_4 :
    (after (exec (.rdsw 4) (rawCore stateP))).map (fun t => (t.S, t.doutBytes, t.st)) =
      some (stateP, [0xde, 0xad, 0xbe, 0xef, 0xca, 0xfe, 0xf0, 0x0d], 0x00010006) := by decide

/-- Fault vector F9. -/
theorem test_rdsw_5 :
    (after (exec (.rdsw 5) (rawCore stateP))).map (fun t => t.st) = some 0x00000C07 := by decide

/-! ### The port -/

/-- Fault vector F5: the all-zero word. -/
theorem test_step_illegal :
    (after (step (State.reset.withFetchWord 32 0))).map (fun t => t.st) = some 0x00000207 := by decide

/-- Fault vector F1: INIT before any KEYLD, and KEYLD in FAULT. -/
theorem test_step_no_key :
    (after (step (State.reset.withFetchWord 32 0x00000002))).map (fun t => t.st) = some 0x00000607 ∧
    (after (step ({ State.reset with phase := .fault, err := .noKey }.withFetchWord 32 0x00000001))).map
      (fun t => t.st) = some 0x00000607 := by decide

/-- Reset during a call (R230), with a command still to come. -/
theorem test_step_rst :
    (after (step { keyedCore .v1 .opening .procData stateP with
      port := [.rst, .command (encode .rawen)] })).map (fun t => (t.K, t.S, t.st, t.port.length)) =
      some (⟨0, 0⟩, Sponge.zero, 0, 1) := by decide

/-- Nothing presented: the core waits (assumption log 2). -/
theorem test_step_waits : after (step State.reset) = some State.reset := by decide

/-! ### The hypotheses of the statements are met

For every statement with hypotheses, a state and operands that meet them all, clause by clause where it has several, at the
values where the clauses meet. -/

theorem witness_DecodeOfEncodeIsTheCommand :
    (Instr.decl 31 ramp).wellFormed = true ∧ (Instr.rdsw 7).wellFormed = true ∧ (Instr.perm 15).wellFormed = true := by
  decide

theorem witness_EncodeOfDecodeIsTheWord :
    decode ⟨0x000001F8#32, ramp⟩ = .ok (.decl 31 ramp) ∧ 0 < bytesConsumed .v1 (.decl 31 ramp) := by decide

theorem witness_DecodingIsStrictByTheTable :
    decode ⟨0x00000201#32, ramp⟩ = .ok (.keyld .v1 ramp) ∧
    (∃ r ∈ Claims.opcodeMap, 0x000001F4#32 &&& r.mask = r.pattern) ∧
    (∀ r ∈ Claims.opcodeMap, 0x00000000#32 &&& r.mask ≠ r.pattern) ∧
    (∀ r ∈ Claims.opcodeMap, 0x00000013#32 &&& r.mask ≠ r.pattern) ∧
    State.reset.phase ≠ .fault ∧ (Claims.faulted .noKey State.reset).phase = .fault := by decide

theorem witness_StepRunsTheDecodedCommand :
    (State.reset.present ⟨0x0000600F#32, ramp⟩).port = .command ⟨0x0000600F#32, ramp⟩ :: [] ∧
    decode ⟨0x0000600F#32, ramp⟩ = .ok (.perm 12) := by decide

theorem witness_ResetEventClearsEverything :
    { tagCore .v1 .opening stateP with port := [.rst] }.port = .rst :: [] := by decide

theorem witness_FaultStateIsLeftOnlyByReset :
    (Claims.faulted .noKey State.reset).phase = .fault ∧
    { Claims.faulted .noKey State.reset with port := [.rst] }.port = .rst :: [] ∧
    ∃ t, step { Claims.faulted .noKey State.reset with port := [.rst] } = .next t ∧ t.phase ≠ .fault :=
  ⟨rfl, rfl, _, rfl, by decide⟩

theorem witness_RateBytesFollowTheMapping :
    (bytesBe 0x0123456789abcdef).length = rate .v0 ∧ ramp.toList.length = rate .v1 ∧ 7 < rate .v0 ∧ 15 < rate .v1 ∧
    rw .v0 ≤ 1 ∧ rw .v1 ≤ 2 := by decide

theorem witness_PaddingIsOneByteThenZeros :
    ([] : List Byte).length < rate .v0 ∧ (ramp.toList.take 7).length < rate .v0 ∧
    (ramp.toList.take 8).length < rate .v1 ∧ (ramp.toList.take 15).length < rate .v1 := by decide

/-- A word of every opcode with a bit it may not have: the bit next to its field, or the top bit. -/
theorem witness_IllegalBeside :
    ∀ x ∈ [(0x00000011#32, 0x1#32, 0x00000200#32), (0x00000202#32, 0x2#32, 0x00000400#32), (0x00000203#32, 0x3#32, 0#32),
      (0x00000204#32, 0x4#32, 0x000001F0#32), (0x00000015#32, 0x5#32, 0#32), (0x00008006#32, 0x6#32, 0x000001F0#32),
      (0x00040007#32, 0x7#32, 0#32), (0x00000408#32, 0x8#32, 0x000001F0#32), (0x00000809#32, 0x9#32, 0#32),
      (0x0000020A#32, 0xA#32, 0#32), (0x0000001B#32, 0xB#32, 0#32), (0x8000000C#32, 0xC#32, 0#32),
      (0x0004000D#32, 0xD#32, 0x00038000#32), (0x0000400E#32, 0xE#32, 0x00038000#32),
      (0x0000800F#32, 0xF#32, 0x00007800#32)],
      x.1 &&& 0xF#32 = x.2.1 ∧ x.1 &&& ~~~(0xF#32 ||| x.2.2) ≠ 0#32 := by simp

/-- The idle phases, for KEYLD, INIT and RAWEN, and the phases beside them. -/
theorem witness_RawenEntersRawMode :
    Claims.Idle State.reset ∧ Claims.Idle (rawCore stateP) ∧ Claims.Idle (tagCore .v1 .opening stateP) ∧
    ¬ Claims.Idle (keyedCore .v0 .sealing .dataDone stateP) ∧
    (keyedCore .v0 .sealing .dataDone stateP).phase ≠ .fault := by decide

theorem witness_KeyldLoadsKeyAndVariant :
    Claims.Idle (tagCore .v0 .sealing afterFinal0) ∧ ¬ Claims.Idle (keyedCore .v0 .sealing .initialized afterInit0) ∧
    (keyedCore .v0 .sealing .initialized afterInit0).phase ≠ .fault := by decide

theorem witness_InitBeginsACall :
    (Claims.Idle (keyedCore .v1 .sealing .raw stateP) ∧ (keyedCore .v1 .sealing .raw stateP).keyed = true) ∧
    (Claims.Idle State.reset ∧ State.reset.keyed = false) ∧
    (¬ Claims.Idle (keyedCore .v0 .sealing .procData stateP) ∧
      (keyedCore .v0 .sealing .procData stateP).phase ≠ .fault) := by decide

/-- Index 4 loads and index 5 faults. -/
theorem witness_LdswLoadsOneWord :
    (rawCore stateP).phase = .raw ∧ 4 ≤ 4 ∧ 3 ≠ 4 ∧ 4 < 5 ∧ 7 < 8 ∧
    State.reset.phase ≠ .raw ∧ State.reset.phase ≠ .fault := by decide

theorem witness_RdswReadsOneWord :
    (rawCore stateP).phase = .raw ∧ 0 ≤ 4 ∧ 4 < 5 ∧ 4 < 7 ∧
    (tagCore .v0 .sealing stateP).phase ≠ .raw ∧ (tagCore .v0 .sealing stateP).phase ≠ .fault := by decide

/-- Twelve rounds run and thirteen fault. -/
theorem witness_PermRunsTheRounds :
    (rawCore stateP).phase = .raw ∧ 12 ≤ 12 ∧ 12 < 13 ∧ 15 < 16 ∧
    State.reset.phase ≠ .raw ∧ State.reset.phase ≠ .fault := by decide

theorem witness_AdAbsorbsAFullBlock :
    Claims.AdPhase (keyedCore .v0 .sealing .initialized afterInit0) ∧
    Claims.AdPhase (keyedCore .v1 .opening .absorbAd stateP) ∧
    ¬ Claims.AdPhase (keyedCore .v0 .sealing .procData stateP) ∧
    (keyedCore .v0 .sealing .procData stateP).phase ≠ .fault := by decide

/-- `LEN` 0 after an AD, 1 after INIT, and the greatest; 0 after INIT and `LEN = RATE` fault. -/
theorem witness_AdlClosesTheAdPhase :
    (Claims.AdPhase (keyedCore .v0 .sealing .absorbAd stateP) ∧ 0 < rate .v0 ∧
      ((keyedCore .v0 .sealing .absorbAd stateP).phase = .initialized → 1 ≤ 0)) ∧
    (Claims.AdPhase (keyedCore .v1 .sealing .initialized stateP) ∧ 15 < rate .v1 ∧
      ((keyedCore .v1 .sealing .initialized stateP).phase = .initialized → 1 ≤ 15)) ∧
    (¬ Claims.AdPhase (keyedCore .v0 .sealing .dataDone stateP) ∧
      (keyedCore .v0 .sealing .dataDone stateP).phase ≠ .fault) ∧
    (Claims.AdPhase (keyedCore .v0 .sealing .absorbAd stateP) ∧ rate .v0 ≤ 8) ∧
    (Claims.AdPhase (keyedCore .v0 .sealing .initialized stateP) ∧
      (0 = 0 ∧ (keyedCore .v0 .sealing .initialized stateP).phase = .initialized)) := by decide

theorem witness_EncEncryptsAFullBlock :
    (Claims.DataPhase (keyedCore .v0 .sealing .initialized afterInit0) ∧
      (keyedCore .v0 .sealing .initialized afterInit0).dir = .sealing) ∧
    (Claims.DataPhase (keyedCore .v1 .sealing .procData stateP) ∧
      (keyedCore .v1 .sealing .procData stateP).dir = .sealing) ∧
    (¬ (Claims.DataPhase (keyedCore .v0 .opening .procData stateP) ∧
      (keyedCore .v0 .opening .procData stateP).dir = .sealing) ∧
      (keyedCore .v0 .opening .procData stateP).phase ≠ .fault) := by decide

/-- `LEN = RATE - 1` runs and `LEN = RATE` faults. -/
theorem witness_EnclEncryptsTheFinalBlock :
    (Claims.DataPhase (keyedCore .v0 .sealing .procData stateP) ∧
      (keyedCore .v0 .sealing .procData stateP).dir = .sealing ∧ 7 < rate .v0 ∧ rate .v0 ≤ 8) ∧
    (¬ (Claims.DataPhase (keyedCore .v1 .sealing .absorbAd stateP) ∧
      (keyedCore .v1 .sealing .absorbAd stateP).dir = .sealing) ∧
      (keyedCore .v1 .sealing .absorbAd stateP).phase ≠ .fault) := by decide

theorem witness_DecDecryptsAFullBlock :
    (Claims.DataPhase (keyedCore .v1 .opening .initialized afterInit0) ∧
      (keyedCore .v1 .opening .initialized afterInit0).dir = .opening) ∧
    (¬ (Claims.DataPhase (keyedCore .v1 .sealing .procData stateP) ∧
      (keyedCore .v1 .sealing .procData stateP).dir = .opening) ∧
      (keyedCore .v1 .sealing .procData stateP).phase ≠ .fault) := by decide

theorem witness_DeclDecryptsTheFinalBlock :
    (Claims.DataPhase (keyedCore .v1 .opening .procData stateP) ∧
      (keyedCore .v1 .opening .procData stateP).dir = .opening ∧ 0 < rate .v1 ∧ 15 < rate .v1 ∧ rate .v1 ≤ 16) ∧
    (¬ (Claims.DataPhase (keyedCore .v1 .opening .dataDone stateP) ∧
      (keyedCore .v1 .opening .dataDone stateP).dir = .opening) ∧
      (keyedCore .v1 .opening .dataDone stateP).phase ≠ .fault) := by decide

theorem witness_FinalDerivesTheTag :
    (keyedCore .v0 .sealing .dataDone stateP).phase = .dataDone ∧
    (keyedCore .v1 .opening .dataDone stateP).phase = .dataDone ∧
    (keyedCore .v1 .opening .procData stateP).phase ≠ .dataDone ∧
    (keyedCore .v1 .opening .procData stateP).phase ≠ .fault := by decide

theorem witness_RdtagReadsTheTag :
    ((tagCore .v0 .sealing stateP).phase = .finalized ∧ (tagCore .v0 .sealing stateP).tagValid = true ∧
      (tagCore .v0 .sealing stateP).dir = .sealing) ∧
    (¬ ((tagCore .v0 .opening stateP).phase = .finalized ∧ (tagCore .v0 .opening stateP).tagValid = true ∧
      (tagCore .v0 .opening stateP).dir = .sealing) ∧ (tagCore .v0 .opening stateP).phase ≠ .fault) ∧
    ∃ t, exec .rdtag (tagCore .v0 .sealing stateP) = .next t := ⟨by decide, by decide, _, rfl⟩

theorem witness_VerifyComparesAndClears :
    ((tagCore .v1 .opening stateP).phase = .finalized ∧ (tagCore .v1 .opening stateP).tagValid = true ∧
      (tagCore .v1 .opening stateP).dir = .opening) ∧
    (¬ ((keyedCore .v0 .opening .finalized stateP).phase = .finalized ∧
      (keyedCore .v0 .opening .finalized stateP).tagValid = true ∧
      (keyedCore .v0 .opening .finalized stateP).dir = .opening) ∧
      (keyedCore .v0 .opening .finalized stateP).phase ≠ .fault) := by decide

/-- Each check in turn is the first to fail: decode, phase, direction, key, range; and none fails. -/
theorem witness_FirstFailingCheckDecidesTheFault :
    State.reset.phase ≠ .fault ∧
    decode ⟨0x00000013#32, ramp⟩ = .error .unusedField ∧
    commandFault (.ldsw 5 ramp) State.reset = some .badPhase ∧
    commandFault (.encl 8 ramp) (keyedCore .v0 .opening .procData stateP) = some .badPhase ∧
    commandFault (.init .sealing ramp) State.reset = some .noKey ∧
    commandFault (.adl 0 ramp) (keyedCore .v0 .sealing .initialized stateP) = some .badLen ∧
    commandFault (.perm 13) (rawCore stateP) = some .badRounds ∧
    commandFault (.rdsw 5) (rawCore stateP) = some .badIndex ∧
    commandFault (.perm 12) (rawCore stateP) = none ∧ decode ⟨0x0000600F#32, ramp⟩ = .ok (.perm 12) := by decide

theorem witness_PhaseFollowsTheTransitionTable :
    (Claims.faulted .noKey State.reset).phase = .fault ∧
    (commandFault (.adl 1 ramp) (keyedCore .v0 .sealing .initialized stateP) = none ∧
      (keyedCore .v0 .sealing .initialized stateP).inCall = true) ∧
    (commandFault .rawen (keyedCore .v0 .sealing .dataDone stateP) ≠ none ∧
      (keyedCore .v0 .sealing .dataDone stateP).inCall = true) ∧
    ∃ t, exec (.init .sealing ramp) (keyedCore .v0 .sealing .uninit Sponge.zero) = .next t ∧
      t.phase = .initialized := ⟨by decide, by decide, by decide, _, rfl, by decide⟩

theorem witness_CommandsWriteOnlyTheirRegisters :
    (rawCore stateP).phase ≠ .fault ∧ commandFault (.ldsw 4 ramp) (rawCore stateP) = none ∧
    Claims.loadsKey (.ldsw 4 ramp) = false ∧ Claims.writesDir (.ldsw 4 ramp) = false ∧
    Claims.writesTagValid (.ldsw 4 ramp) = false ∧ Claims.writesVerdict (.ldsw 4 ramp) = false ∧
    (∃ t, exec (.ldsw 4 ramp) (rawCore stateP) = .next t) ∧
    commandFault (.rdsw 4) (rawCore stateP) = none ∧
    commandFault .rdtag (tagCore .v0 .sealing stateP) = none :=
  ⟨by decide, by decide, rfl, rfl, rfl, rfl, ⟨_, rfl⟩, by decide, by decide⟩

theorem witness_KeyChangesOnlyByKeyldFaultOrReset :
    ∃ t, step ((rawCore stateP).present ⟨0x00000201#32, ramp⟩) = .next t ∧ t.K = rampKey ∧ t.var = .v1 :=
  ⟨_, rfl, by decide, by decide⟩

theorem witness_OnlyInitAndFinalReadTheKey :
    Claims.touchesKey (.enc ramp) = false ∧ (keyedCore .v0 .sealing .procData stateP).phase ≠ .fault ∧
    ∃ t, exec (.enc ramp) (keyedCore .v0 .sealing .procData stateP) = .next t := ⟨rfl, by decide, _, rfl⟩

/-- The invariant holds of a call, of a finished call and of a faulted core. -/
theorem witness_EveryStepKeepsTheInvariant :
    (keyedCore .v0 .sealing .procData stateP).Inv ∧ (tagCore .v1 .opening stateP).Inv ∧
    (Claims.faulted .badLen State.reset).Inv ∧
    ∃ t, step ((rawCore stateP).present ⟨0x0000000F#32, ramp⟩) = .next t :=
  ⟨by constructor <;> decide, by constructor <;> decide, by constructor <;> decide, _, rfl⟩

/-- The first fault of a keyed core, a command after it, and the reset after that. -/
theorem witness_ErrIsWrittenOnceUntilReset :
    (keyedCore .v0 .sealing .procData stateP).Inv ∧ (keyedCore .v0 .sealing .procData stateP).err = .none ∧
    (∃ t, step ((keyedCore .v0 .sealing .procData stateP).present ⟨0#32, ramp⟩) = .next t ∧ t.err ≠ .none) ∧
    (Claims.faulted .badLen State.reset).Inv ∧ (Claims.faulted .badLen State.reset).err ≠ .none ∧
    (∃ t, step { Claims.faulted .badLen State.reset with port := [.rst] } = .next t ∧ t.err = .none) :=
  ⟨by constructor <;> decide, rfl, ⟨_, rfl, by decide⟩, by constructor <;> decide, by decide, ⟨_, rfl, rfl⟩⟩

theorem witness_DoutHoldsTheProducedBytes :
    (keyedCore .v0 .sealing .procData stateP).phase ≠ .fault ∧
    commandFault (.encl 0 ramp) (keyedCore .v0 .sealing .procData stateP) = none ∧
    commandFault (.encl 7 ramp) (keyedCore .v0 .sealing .procData stateP) = none ∧
    (∃ t, exec (.encl 7 ramp) (keyedCore .v0 .sealing .procData stateP) = .next t ∧ t.doutLen ≤ 7) ∧
    bytesProduced .v0 (.encl 0 ramp) = 0 := ⟨by decide, by decide, by decide, ⟨_, rfl, by decide⟩, by decide⟩

theorem witness_StatusWordHoldsTheFields : { State.reset with doutLen := 16 }.doutLen ≤ 16 := by decide

/-- `ADL 1` with operands that differ from the second byte on, and FINAL with operands that differ in every byte. -/
theorem witness_UnusedOperandBytesAreIgnored :
    decode ⟨0x00000014#32, ramp⟩ = .ok (.adl 1 ramp) ∧ zeroBlock ≠ ramp ∧
    ramp.toList.take (bytesConsumed .v0 (.adl 1 ramp)) = zeroBlock.toList.take (bytesConsumed .v0 (.adl 1 ramp)) ∧
    ramp.toList.take (bytesConsumed .v0 .final) = zeroBlock.toList.take (bytesConsumed .v0 .final) := by decide

theorem witness_FaultsDependOnNoSecret :
    (rawCore stateP).phase ≠ .fault ∧ (rawCore stateP).phase = (rawCore Sponge.zero).phase ∧
    (rawCore stateP).dir = (rawCore Sponge.zero).dir ∧ (rawCore stateP).tagValid = (rawCore Sponge.zero).tagValid ∧
    (rawCore stateP).keyed = (rawCore Sponge.zero).keyed ∧ (rawCore stateP).var = (rawCore Sponge.zero).var ∧
    rawCore stateP ≠ rawCore Sponge.zero ∧
    step ((rawCore stateP).present ⟨0x0000680F#32, ramp⟩) = .next (Claims.faulted .badRounds (rawCore stateP)) := by
  refine ⟨?_, rfl, rfl, rfl, rfl, rfl, ?_, rfl⟩ <;> decide

theorem witness_CommandsRaiseOnlyTheirFaults :
    State.reset.phase ≠ .fault ∧ ∃ t, exec (.init .sealing ramp) State.reset = .next t ∧ t.phase = .fault :=
  ⟨by decide, _, rfl, rfl⟩

theorem witness_VerdictIsEqualityOfAllBytes :
    (tagCore .v0 .opening stateP).phase = .finalized ∧ (tagCore .v0 .opening stateP).tagValid = true ∧
    (tagCore .v0 .opening stateP).dir = .opening ∧
    (∃ t, exec (.verify ramp) (tagCore .v0 .opening stateP) = .next t ∧ t.verdict = .fail) ∧
    (∃ t, exec (.verify (blockOf (tagBytes stateP))) { tagCore .v0 .opening stateP with S := stateP } = .next t ∧
      t.verdict = .pass) :=
  ⟨rfl, rfl, rfl, ⟨_, rfl, by decide⟩, ⟨_, rfl, by decide⟩⟩

theorem witness_DecryptionInvertsEncryption :
    Claims.DataPhase (keyedCore .v0 .sealing .initialized afterInit0) ∧
    (keyedCore .v0 .sealing .initialized afterInit0).dir = .sealing ∧ 7 < rate .v0 ∧
    (∃ t, exec (.enc ramp) (keyedCore .v0 .sealing .initialized afterInit0) = .next t) ∧
    (∃ t, exec (.encl 7 ramp) (keyedCore .v0 .sealing .initialized afterInit0) = .next t) :=
  ⟨.inl rfl, rfl, by decide, ⟨_, rfl⟩, ⟨_, rfl⟩⟩

theorem witness_CallStateIgnoresDirectionAndPast :
    (Claims.Idle (keyedCore .v0 .sealing .raw stateP) ∧ (keyedCore .v0 .sealing .raw stateP).keyed = true ∧
      (∃ t, exec (.init .sealing ramp) (keyedCore .v0 .sealing .raw stateP) = .next t) ∧
      (∃ t, exec (.init .opening ramp) { keyedCore .v0 .sealing .raw stateP with S := afterInit0, dir := .opening } =
        .next t)) ∧
    (keyedCore .v0 .sealing .absorbAd stateP).phase ≠ .fault ∧
    (∃ t, exec (.ad ramp) (keyedCore .v0 .sealing .absorbAd stateP) = .next t ∧ t.phase ≠ .fault) ∧
    (∃ t, exec (.adl 0 ramp) (keyedCore .v0 .sealing .absorbAd stateP) = .next t ∧ t.phase ≠ .fault) :=
  ⟨⟨.inr (.inr rfl), rfl, ⟨_, rfl⟩, ⟨_, rfl⟩⟩, by decide, ⟨_, rfl, by decide⟩, ⟨_, rfl, by decide⟩⟩

/-- Two states of one rate word and other capacity words. -/
theorem witness_CapacityNeverReachesDout :
    (keyedCore .v0 .sealing .procData stateP).inCall = true ∧
    rateBytes .v0 { stateP with x1 := 0, x2 := 0, x3 := 0, x4 := 0 } = rateBytes .v0 stateP ∧
    (∃ t, exec (.enc ramp) (keyedCore .v0 .sealing .procData stateP) = .next t) ∧
    (∃ t, exec (.enc ramp)
      { keyedCore .v0 .sealing .procData stateP with
        S := { stateP with x1 := 0, x2 := 0, x3 := 0, x4 := 0 }, K := ⟨0, 0⟩ } = .next t) :=
  ⟨by decide, by decide, ⟨_, rfl⟩, ⟨_, rfl⟩⟩

theorem witness_WellFormedCallsCompleteWithoutFault :
    Claims.Idle (keyedCore .v1 .sealing .uninit Sponge.zero) ∧
    (keyedCore .v1 .sealing .uninit Sponge.zero).keyed = true := by decide

/-- The states of the shortest seal call, V0 with `ramp` as key and nonce and nothing to seal (95_test_vectors.md, P1). -/
theorem test_shortest_seal_call :
    after (exec (.keyld .v0 ramp) State.reset) = some (keyedCore .v0 .sealing .uninit Sponge.zero) ∧
    after (exec (.init .sealing ramp) (keyedCore .v0 .sealing .uninit Sponge.zero)) =
      some (keyedCore .v0 .sealing .initialized afterInit0) ∧
    after (exec (.encl 0 (blockOf [])) (keyedCore .v0 .sealing .initialized afterInit0)) =
      some (keyedCore .v0 .sealing .dataDone afterEncl0) ∧
    after (exec .final (keyedCore .v0 .sealing .dataDone afterEncl0)) = some (tagCore .v0 .sealing afterFinal0) ∧
    after (exec .rdtag (tagCore .v0 .sealing afterFinal0)) =
      some ((tagCore .v0 .sealing afterFinal0).putDout (tagBytes afterFinal0)) := by decide

/-- A command whose answer is known is a known next state. -/
theorem after_next {i : Instr} {s t : State} (h : after (exec i s) = some t) : exec i s = .next t := by
  obtain ⟨u, hu⟩ := exec_answers_next i s
  rw [hu] at h ⊢
  cases h
  rfl

/-- What the shortest seal call produces: the tag alone (44_final_tag.md R163). -/
theorem witness_WrongTagIsRejected :
    sealMessage .v0 ramp ramp [] [] = some ([] ++ tagBytes afterFinal0) ∧ (tagBytes afterFinal0).length = 16 ∧
    ramp.toList.length = 16 ∧ ramp.toList ≠ tagBytes afterFinal0 := by
  obtain ⟨h1, h2, h3, h4, h5⟩ := test_shortest_seal_call
  refine ⟨?_, by decide, by decide, by decide⟩
  have e : sealExpansion .v0 ramp ramp [] [] =
    [.keyld .v0 ramp, .init .sealing ramp, .encl 0 (blockOf []), .final, .rdtag] := rfl
  have r := runAll_cons (after_next h1) (runAll_cons (after_next h2) (runAll_cons (after_next h3)
    (runAll_cons (after_next h4) (runAll_cons (after_next h5) (runAll_nil _)))))
  unfold sealMessage
  rw [e, r]
  decide

/-- Commands that execute with 12, 8, 6 and no rounds; and a command of each call that does not fault. -/
theorem witness_CallRunsTheCountedRounds :
    (rawCore stateP).phase ≠ .fault ∧ commandFault (.perm 12) (rawCore stateP) = none ∧
    commandFault (.perm 0) (rawCore stateP) = none ∧
    commandFault (.adl 15 ramp) (keyedCore .v1 .sealing .initialized stateP) = none ∧
    commandFault (.dec ramp) (keyedCore .v0 .opening .procData stateP) = none ∧
    commandFault (.decl 7 ramp) (keyedCore .v0 .opening .procData stateP) = none ∧
    Instr.rdtag ∈ sealCall .v0 ramp [] [] ∧ Instr.verify ramp ∈ openCall .v0 ramp [] ramp [] ∧
    (∃ t, exec .rdtag (tagCore .v0 .sealing stateP) = .next t ∧ t.phase ≠ .fault) ∧
    (∃ t, exec (.verify ramp) (tagCore .v0 .opening stateP) = .next t ∧ t.phase ≠ .fault) :=
  ⟨by decide, by decide, by decide, by decide, by decide, by decide, by decide, by decide, ⟨_, rfl, by decide⟩,
    ⟨_, rfl, by decide⟩⟩

theorem witness_ShortCiphertextFails : (ramp.toList.take 15).length < 16 := by decide

end Sys2Proof.Tests
end

/-! PROOF. The statements of 00_scope.md: the parameters of the variants (R6), big-endian bytes and words (R9, 20_memory.md
R51, R53), and the padding of a final block (R11, R54). -/

namespace Sys2Proof.Proofs

open Sys2Proof Sys2Proof.Machine

/-! ### Bytes and words -/

/-- R51: byte `k` of a word is its bits `63-8k : 56-8k`. -/
theorem bytesBe_getElem? (w : Word) (k : Nat) (hk : k < 8) :
    (bytesBe w)[k]? = some (w.extractLsb' (56 - 8 * k) 8) := by
  interval_cases k <;> rfl

@[simp] theorem be64_bytesBe (w : Word) : be64 (bytesBe w) = w := by
  apply BitVec.eq_of_getLsbD_eq
  intro i hi
  have same_bit : 8 * (7 - (7 - i / 8)) + i % 8 = i := by omega
  rw [be64_bit _ i hi, bytesBe_bit w _ _ (by omega) (by omega), same_bit]

theorem bytesBe_be64 (b : List Byte) (hb : b.length = 8) : bytesBe (be64 b) = b := by
  apply List.ext_getElem (by simp [hb])
  intro k in_bytes _
  have hk : k < 8 := by simpa using in_bytes
  apply BitVec.eq_of_getLsbD_eq
  intro i hi
  have same_byte : 7 - (8 * (7 - k) + i) / 8 = k := by omega
  have same_bit : (8 * (7 - k) + i) % 8 = i := by omega
  have bit := bytesBe_bit (be64 b) k i hk hi
  rw [be64_bit b _ (by omega), same_byte, same_bit, List.getD_eq_getElem _ _ in_bytes,
    List.getD_eq_getElem _ _ (by omega)] at bit
  exact bit

/-- R53: sixteen bytes are their two words. -/
theorem bytesBe_halves (d : Block) :
    bytesBe (be64 (d.toList.take 8)) ++ bytesBe (be64 (d.toList.drop 8)) = d.toList := by
  rw [bytesBe_be64 _ (by simp), bytesBe_be64 _ (by simp), List.take_append_drop]

/-- Settles O18: two bit-by-bit arguments, over `be64_bit` and `bytesBe_bit`. -/
theorem bytesAndWordsAreInverse : Obligations.BytesAndWordsAreInverse :=
  ⟨bytesBe_getElem?, be64_bytesBe, bytesBe_be64, bytesBe_halves⟩

/-! ### Changing one byte of a block -/

/-- Changing byte `k` of a string XORs the difference of the old and the new byte into the word, at that byte's place. -/
theorem be64_set (b : List Byte) (k : Nat) (x : Byte) (hk : k < 8) (hb : k < b.length) :
    be64 (b.set k x) = be64 b ^^^ ((b.getD k 0 ^^^ x).setWidth 64 <<< (56 - 8 * k)) := by
  apply BitVec.eq_of_getLsbD_eq
  intro i hi
  rw [BitVec.getLsbD_xor, BitVec.getLsbD_shiftLeft, BitVec.getLsbD_setWidth, be64_bit _ i hi, be64_bit _ i hi]
  by_cases hki : 7 - i / 8 = k
  · have not_below : ¬ i < 56 - 8 * k := by omega
    have same_bit : i - (56 - 8 * k) = i % 8 := by omega
    simp [hki, same_bit, not_below, hi, hb, show i % 8 < 64 by omega]
  · have other_byte : (b.set k x).getD (7 - i / 8) 0 = b.getD (7 - i / 8) 0 := by
      simp [List.getElem?_set_ne (Ne.symm hki)]
    rw [other_byte]
    obtain below | above : i < 56 - 8 * k ∨ 8 ≤ i - (56 - 8 * k) := by omega
    · simp [below]
    · rw [BitVec.getLsbD_of_ge _ _ above]
      simp

/-- A byte beyond the first eight is not in the word. -/
theorem be64_set_beyond (b : List Byte) (k : Nat) (x : Byte) (hk : 8 ≤ k) : be64 (b.set k x) = be64 b := by
  rw [← be64_take, List.take_set_of_le hk, be64_take]

/-- R52: changing byte `k` of an absorbed block changes one byte of the rate portion, in word `S[k div 8]`. -/
theorem xorRate_set (v : Variant) (b : List Byte) (S : Sponge) (k : Nat) (x : Byte)
    (hk : k < rate v) (hb : k < b.length) :
    xorRate v (b.set k x) S =
      (xorRate v b S).set (k / 8) ((xorRate v b S).get (k / 8) ^^^
        ((b.getD k 0 ^^^ x).setWidth 64 <<< (56 - 8 * (k % 8)))) := by
  obtain low | high : k < 8 ∨ 8 ≤ k := Nat.lt_or_ge k 8
  · have word : k / 8 = 0 := by omega
    rw [word, Nat.mod_eq_of_lt low]
    cases v <;> simp [xorRate, Sponge.set, Sponge.get, be64_set b k x low hb, BitVec.xor_assoc, List.drop_set, low]
  · have in_range : k < 16 := Nat.lt_of_lt_of_le hk (rate_le v)
    have word : k / 8 = 1 := by omega
    have place : k % 8 = k - 8 := by omega
    cases v with
    | v0 => exact absurd hk (by simpa using high)
    | v1 =>
      have changed := be64_set (b.drop 8) (k - 8) x (by omega) (by simp; omega)
      simp [xorRate, Sponge.set, Sponge.get, be64_set_beyond b k x high, BitVec.xor_assoc, List.drop_set,
        Nat.not_lt.mpr high, changed, word, place, Nat.add_sub_cancel' high]

/-! ### Padding -/

/-- R54: the padded block is the zero-extended one with `0x80` in place of its first zero. -/
theorem pad_eq_set (v : Variant) (m : List Byte) (hm : m.length < rate v) :
    pad v m = (m ++ List.replicate (rate v - m.length) 0#8).set m.length 0x80#8 := by
  obtain ⟨n, hn⟩ : ∃ n, rate v - m.length = n + 1 := ⟨rate v - m.length - 1, by omega⟩
  simp [pad, hn, List.replicate_succ]

/-- R54 in word terms. -/
theorem xorRate_pad (v : Variant) (m : List Byte) (S : Sponge) (hm : m.length < rate v) :
    xorRate v (pad v m) S =
      (let T := xorRate v (m ++ List.replicate (rate v - m.length) 0#8) S
       T.set (m.length / 8) (T.get (m.length / 8) ^^^ (0x80#64 <<< (56 - 8 * (m.length % 8))))) := by
  have longer : m.length < (m ++ List.replicate (rate v - m.length) 0#8).length := by simp; omega
  have zero_byte : (m ++ List.replicate (rate v - m.length) 0#8).getD m.length 0 = 0#8 := by
    simp [List.getD, hm]
  rw [pad_eq_set v m hm, xorRate_set v _ S _ _ hm longer, zero_byte]
  rfl

/-- Settles O20: padding changes one zero byte of the zero-extended block (`pad_eq_set`, `xorRate_set`). -/
theorem paddingIsOneByteThenZeros : Obligations.PaddingIsOneByteThenZeros := fun v m S hm =>
  ⟨by simp [pad], pad_length v m hm, xorRate_pad v m S hm⟩

/-! ### The parameters -/

/-- Settles O17: the values are those of `params`, and `Variant` has two constructors. -/
theorem variantParametersAreTheTable : Obligations.VariantParametersAreTheTable := by
  refine ⟨rate_v0, rw_v0, nb_v0, rfl, rate_v1, rw_v1, nb_v1, rfl, na_eq, ?_⟩
  intro v
  cases v
  · exact .inl rfl
  · exact .inr rfl

end Sys2Proof.Proofs

/-! PROOF. The statements of 10_state.md. First what the later proofs need: the fault of a decoded command is the one of
R36's table, what its result is, register by register (R24, R36, R37), and everything a step can do in the tables' words.
Then the statements. -/

namespace Sys2Proof.Proofs

open Sys2Proof Sys2Proof.Machine

/-! ### The conditions on DIR and TAGVALID, command by command (R36) -/

section CallConditions

variable (s : State) (v : Variant) (r : Dir) (n : Nat) (d : Block)

@[simp] theorem callConditions_keyld : callConditions (.keyld v d) s = true := rfl
@[simp] theorem callConditions_init : callConditions (.init r d) s = true := rfl
@[simp] theorem callConditions_ad : callConditions (.ad d) s = true := rfl
@[simp] theorem callConditions_adl : callConditions (.adl n d) s = true := rfl
@[simp] theorem callConditions_enc : callConditions (.enc d) s = (s.dir == .sealing) := rfl
@[simp] theorem callConditions_encl : callConditions (.encl n d) s = (s.dir == .sealing) := rfl
@[simp] theorem callConditions_dec : callConditions (.dec d) s = (s.dir == .opening) := rfl
@[simp] theorem callConditions_decl : callConditions (.decl n d) s = (s.dir == .opening) := rfl
@[simp] theorem callConditions_final : callConditions .final s = true := rfl
@[simp] theorem callConditions_rdtag : callConditions .rdtag s = (s.tagValid && s.dir == .sealing) := rfl
@[simp] theorem callConditions_verify : callConditions (.verify d) s = (s.tagValid && s.dir == .opening) := rfl
@[simp] theorem callConditions_rawen : callConditions .rawen s = true := rfl
@[simp] theorem callConditions_ldsw : callConditions (.ldsw n d) s = true := rfl
@[simp] theorem callConditions_rdsw : callConditions (.rdsw n) s = true := rfl
@[simp] theorem callConditions_perm : callConditions (.perm n) s = true := rfl

end CallConditions

/-! ### The fault of a command is the table's (R36, R203) -/

theorem checksOf_begins_with_phase (i : Instr) (s : State) :
    ∃ cs, checksOf i s = s.checkPhase (legalPhases i) :: cs := by
  cases i <;> exact ⟨_, rfl⟩

/-- The checks a command makes are the conditions of R36's table, in R203's order: a check says what must hold where the
table says what faults, so that the comparisons of the second group stand negated. -/
theorem firstFailure_checksOf (i : Instr) (s : State) : firstFailure (checksOf i s) = commandFault i s := by
  by_cases hp : s.phase ∈ legalPhases i
  · have phase_ok : (s.checkPhase (legalPhases i)).ok = true := by simp [State.checkPhase, hp]
    simp only [commandFault, hp, not_true, false_or]
    cases i with
    | keyld | ad | enc | dec | final | rawen =>
      simp only [checksOf, legalPhases, idlePhases, dataPhases] at phase_ok ⊢
      simp [phase_ok, fieldFault, Instr.opc, State.checkDir]
    | init | adl | encl | decl | rdtag | verify | ldsw | rdsw | perm =>
      simp only [checksOf, legalPhases, idlePhases, dataPhases] at phase_ok ⊢
      simp [phase_ok, fieldFault, Instr.opc, State.checkKeyed, State.checkDir,
        State.checkTag, State.checkLen, State.checkAdNotEmpty, checkIndex, checkRounds]
      grind
  · obtain ⟨cs, hcs⟩ := checksOf_begins_with_phase i s
    simp [hcs, commandFault, State.checkPhase, hp]

/-- A command whose checks all hold, condition by condition (R36). -/
theorem conditions_of_executes {i : Instr} {s : State} (h : commandFault i s = none) :
    s.phase ∈ legalPhases i ∧ callConditions i s = true ∧ (i.opc = 0x2 → s.keyed = true) ∧ fieldFault i s = none := by
  unfold commandFault at h
  split at h
  · cases h
  next legal =>
    simp only [not_or, not_not, Bool.not_eq_false] at legal
    split at h
    · cases h
    next keyed =>
      obtain ⟨phase_ok, call_ok⟩ := legal
      exact ⟨phase_ok, call_ok, by simpa using keyed, h⟩

theorem legal_of_executes {i : Instr} {s : State} (h : commandFault i s = none) : s.phase ∈ legalPhases i :=
  (conditions_of_executes h).1

theorem callConditions_of_executes {i : Instr} {s : State} (h : commandFault i s = none) : callConditions i s = true :=
  (conditions_of_executes h).2.1

/-- A command that faults records a cause, never the code 0 (60_exceptions.md R201). -/
theorem commandFault_ne_none (i : Instr) (s : State) : commandFault i s ≠ some .none := by
  unfold commandFault
  split
  · simp
  · split
    · simp
    · cases i <;> simp [fieldFault]

/-- The fault of a command depends on neither `S` nor `K`. -/
theorem commandFault_congr (i : Instr) (s : State) (S' : Sponge) (K' : KeyReg) :
    commandFault i { s with S := S', K := K' } = commandFault i s := by
  cases i <;> rfl

theorem raise_eq_faulted (s : State) (x : Cause) : s.raise x = Claims.faulted x s := rfl

/-- Everything a decoded command can do, in the words of R36: nothing in FAULT, the fault named, or its result. -/
theorem exec_outcomes {i : Instr} {s t : State} (h : exec i s = .next t) :
    (s.phase = .fault ∧ t = s) ∨
    (s.phase ≠ .fault ∧ ∃ x, commandFault i s = some x ∧ t = Claims.faulted x s) ∨
    (s.phase ≠ .fault ∧ commandFault i s = none ∧ t = resultOf i s) := by
  simpa only [firstFailure_checksOf, raise_eq_faulted] using exec_cases i s t h

theorem exec_faults {i : Instr} {s : State} {x : Cause} (h : s.phase ≠ .fault) (hx : commandFault i s = some x) :
    exec i s = .next (Claims.faulted x s) := by
  rw [exec_eq_runCommand, s.runCommand_raises _ _ x h (by rw [firstFailure_checksOf, hx]), raise_eq_faulted]

theorem exec_executes {i : Instr} {s : State} (h : s.phase ≠ .fault) (hx : commandFault i s = none) :
    exec i s = .next (resultOf i s) := by
  rw [exec_eq_runCommand, s.runCommand_executes _ _ h (by rw [firstFailure_checksOf, hx])]

/-! ### What a command leaves, register by register (R36, R37) -/

/-- R36, column "PHASE after": a command that does not write `PHASE` is legal in the one phase it leaves. -/
theorem resultOf_phase {i : Instr} {s : State} (h : commandFault i s = none) :
    (resultOf i s).phase = phaseAfter i := by
  have legal := legal_of_executes h
  cases i with
  | rdtag | verify | ldsw | rdsw | perm => simpa [legalPhases, resultOf, phaseAfter] using legal
  | _ => rfl

theorem phaseAfter_ne_fault (i : Instr) : phaseAfter i ≠ .fault := by
  cases i <;> simp [phaseAfter]

theorem fault_not_legal (i : Instr) : .fault ∉ legalPhases i := by
  cases i <;> simp [legalPhases]

@[simp] theorem resultOf_err (i : Instr) (s : State) : (resultOf i s).err = s.err := by
  cases i <;> simp [resultOf]

@[simp] theorem resultOf_port (i : Instr) (s : State) : (resultOf i s).port = s.port := by
  cases i <;> simp [resultOf]

theorem resultOf_key {i : Instr} (s : State) (h : Claims.loadsKey i = false) :
    (resultOf i s).K = s.K ∧ (resultOf i s).keyed = s.keyed ∧ (resultOf i s).var = s.var := by
  cases i with
  | keyld => cases h
  | _ => simp [resultOf]

theorem resultOf_dir {i : Instr} (s : State) (h : Claims.writesDir i = false) : (resultOf i s).dir = s.dir := by
  cases i with
  | keyld | init => cases h
  | _ => simp [resultOf]

theorem resultOf_tagValid {i : Instr} (s : State) (h : Claims.writesTagValid i = false) :
    (resultOf i s).tagValid = s.tagValid := by
  cases i with
  | keyld | init | final | verify | rawen => cases h
  | _ => simp [resultOf]

theorem resultOf_verdict {i : Instr} (s : State) (h : Claims.writesVerdict i = false) :
    (resultOf i s).verdict = s.verdict := by
  cases i with
  | keyld | init | verify | rawen => cases h
  | _ => simp [resultOf]

/-! ### The bytes a command puts into DOUT (R24, 20_memory.md R57) -/

/-- The bytes an executed command puts into `DOUT`. -/
def bytesOut (i : Instr) (s : State) : List Byte :=
  match i with
  | .enc din => rateBytes s.var (xorRate s.var (firstBytes din (rate s.var)) s.dataEntry)
  | .encl len din => (rateBytes s.var (xorRate s.var (pad s.var (firstBytes din len)) s.dataEntry)).take len
  | .dec din => xorBytes (firstBytes din (rate s.var)) (rateBytes s.var s.dataEntry)
  | .decl len din => xorBytes (firstBytes din len) (rateBytes s.var s.dataEntry)
  | .rdtag => tagBytes s.S
  | .rdsw idx => bytesBe (s.S.get idx)
  | .keyld _ _ => []
  | .init _ _ => []
  | .ad _ => []
  | .adl _ _ => []
  | .final => []
  | .verify _ => []
  | .rawen => []
  | .ldsw _ _ => []
  | .perm _ => []

theorem resultOf_dout (i : Instr) (s : State) : (resultOf i s).dout = blockOf (bytesOut i s) := by
  cases i with
  | enc | encl | dec | decl | rdtag | rdsw => rfl
  | _ => exact blockOf_nil.symm

theorem resultOf_doutLen (i : Instr) (s : State) : (resultOf i s).doutLen = (bytesOut i s).length := by
  cases i <;> rfl

/-- R57: an executed command produces the table's number of bytes. -/
theorem bytesOut_length {i : Instr} {s : State} (h : commandFault i s = none) :
    (bytesOut i s).length = bytesProduced s.var i := by
  obtain ⟨-, -, -, field⟩ := conditions_of_executes h
  have rate_le := rate_le s.var
  cases i with
  | encl len | decl len =>
    have len_lt : len < rate s.var := by simpa [fieldFault] using field
    simp [bytesOut, bytesProduced]
    omega
  | dec => simpa [bytesOut, bytesProduced] using rate_le
  | enc => simp [bytesOut, bytesProduced]
  | _ => rfl

theorem bytesProduced_le {i : Instr} {s : State} (h : commandFault i s = none) : bytesProduced s.var i ≤ 16 := by
  obtain ⟨-, -, -, field⟩ := conditions_of_executes h
  have rate_le := rate_le s.var
  cases i with
  | encl len | decl len =>
    have len_lt : len < rate s.var := by simpa [fieldFault] using field
    exact len_lt.le.trans rate_le
  | enc | dec => exact rate_le
  | _ => simp [bytesProduced]

/-! ### What a step can do -/

/-- Everything a step can do, in the words of the tables: wait, reset, take a command in FAULT without effect, fault with a
cause, or execute a decoded command. -/
theorem step_outcomes {s t : State} (h : step s = .next t) :
    (s.port = [] ∧ t = s) ∨
    (∃ rest, s.port = .rst :: rest ∧ t = Claims.resetValues rest) ∨
    (∃ c rest, s.port = .command c :: rest ∧
      ((s.phase = .fault ∧ t = { s with port := rest }) ∨
       (s.phase ≠ .fault ∧ ∃ x, x ≠ .none ∧ t = Claims.faulted x { s with port := rest }) ∨
       (s.phase ≠ .fault ∧ ∃ i, decode c = .ok i ∧ commandFault i { s with port := rest } = none ∧
         t = resultOf i { s with port := rest }))) := by
  obtain ⟨hp, ht⟩ | ⟨rest, hp, ht⟩ | ⟨c, rest, i, hp, hd, hx⟩ | ⟨c, rest, e, hp, -, ht⟩ := step_cases s t h
  · exact .inl ⟨hp, ht⟩
  · exact .inr (.inl ⟨rest, hp, ht⟩)
  · refine .inr (.inr ⟨c, rest, hp, ?_⟩)
    obtain ⟨hf, ht⟩ | ⟨hf, x, hx, ht⟩ | ⟨hf, hx, ht⟩ := exec_outcomes hx
    · exact .inl ⟨hf, ht⟩
    · exact .inr (.inl ⟨hf, x, fun hnone => commandFault_ne_none i _ (hnone ▸ hx), ht⟩)
    · exact .inr (.inr ⟨hf, i, hd, hx, ht⟩)
  · refine .inr (.inr ⟨c, rest, hp, ?_⟩)
    by_cases hf : s.phase = .fault
    · exact .inl ⟨hf, by simpa [State.illegalCommand, hf] using ht⟩
    · exact .inr (.inl ⟨hf, .illegalCmd, by decide, by
        simpa [State.illegalCommand, hf, raise_eq_faulted] using ht⟩)

/-! ### The invariant (10_state.md R35) -/

theorem inv_of_port {s : State} (h : s.Inv) (port : List PortEvent) : { s with port := port }.Inv := { h with }

theorem resetValues_inv (port : List PortEvent) : (Claims.resetValues port).Inv where
  doutLen_le := Nat.zero_le _
  dout_tail := fun k hk _ => Vector.getElem_replicate hk
  fault_cleared := nofun
  err_iff_fault := by simp [Claims.resetValues]
  uninit_clear := fun _ => ⟨rfl, rfl, rfl, rfl, rfl⟩
  call_keyed := by simp [Claims.resetValues, State.inCall]
  unkeyed_clear := fun _ => ⟨rfl, rfl⟩
  tag_phase := nofun
  verdict_phase := fun h => absurd rfl h
  finalized_tag := nofun
  finalized_dout := nofun
  ad_dout := fun _ => rfl

theorem faulted_inv {x : Cause} (hx : x ≠ .none) (s : State) : (Claims.faulted x s).Inv where
  doutLen_le := Nat.zero_le _
  dout_tail := fun k hk _ => Vector.getElem_replicate hk
  fault_cleared := fun _ => ⟨rfl, rfl, rfl, rfl, rfl, rfl, rfl, rfl⟩
  err_iff_fault := by simp [Claims.faulted, hx]
  uninit_clear := nofun
  call_keyed := by simp [Claims.faulted, State.inCall]
  unkeyed_clear := fun _ => ⟨rfl, rfl⟩
  tag_phase := nofun
  verdict_phase := fun h => absurd rfl h
  finalized_tag := nofun
  finalized_dout := nofun
  ad_dout := fun _ => rfl

/-- Outside FINALIZED there is neither a tag nor a verdict (R28, R29). -/
theorem no_tag_no_verdict {s : State} (inv : s.Inv) (h : s.phase ≠ .finalized) : s.tagValid = false ∧ s.verdict = .none :=
  ⟨by simpa using mt (fun ht => (inv.tag_phase ht).1) h, by_contra fun hv => h (inv.verdict_phase hv).1⟩

theorem verdictOf_ne_none (computed received : List Byte) : verdictOf computed received ≠ .none := by
  unfold verdictOf
  split <;> simp

/-! #### What an executed command leaves, from a state that meets the invariant -/

/-- A tag stands after FINAL, which computes it, and after RDTAG, which keeps it (R28). -/
theorem tag_after {i : Instr} {s : State} (inv : s.Inv) (executes : commandFault i s = none)
    (h : (resultOf i s).tagValid = true) : i = .final ∨ i = .rdtag := by
  have legal := legal_of_executes executes
  cases i with
  | final => exact .inl rfl
  | rdtag => exact .inr rfl
  | keyld | init | verify | rawen => cases h
  | ad | adl | enc | encl | dec | decl | ldsw | rdsw | perm =>
    have hf : s.phase = .finalized := (inv.tag_phase (by simpa [resultOf] using h)).1
    simp [legalPhases, hf] at legal

/-- A verdict stands after VERIFY alone (R29). -/
theorem verdict_after {i : Instr} {s : State} (inv : s.Inv) (executes : commandFault i s = none)
    (h : (resultOf i s).verdict ≠ .none) : ∃ d, i = .verify d := by
  have legal := legal_of_executes executes
  cases i with
  | verify d => exact ⟨d, rfl⟩
  | keyld | init | rawen => exact absurd rfl h
  | rdtag =>
    obtain ⟨-, no_tag, -, -⟩ := inv.verdict_phase (by simpa [resultOf] using h)
    have tag := callConditions_of_executes executes
    simp [no_tag] at tag
  | ad | adl | enc | encl | dec | decl | final | ldsw | rdsw | perm =>
    have hf : s.phase = .finalized := (inv.verdict_phase (by simpa [resultOf] using h)).1
    simp [legalPhases, hf] at legal

/-- A key is loaded in a call and in FINALIZED (R203): INIT checks it, and no command after INIT clears it. -/
theorem keyed_after {i : Instr} {s : State} (inv : s.Inv) (executes : commandFault i s = none)
    (h : (resultOf i s).inCall = true ∨ (resultOf i s).phase = .finalized) :
    (resultOf i s).keyed = true := by
  have legal := legal_of_executes executes
  cases i with
  | keyld => rfl
  | init =>
    obtain ⟨-, -, keyed, -⟩ := conditions_of_executes executes
    exact keyed rfl
  | rawen | ldsw | rdsw | perm =>
    simp [State.inCall, resultOf_phase executes, phaseAfter] at h
  | ad | adl | enc | encl | dec | decl | final | rdtag | verify =>
    have called : s.inCall = true ∨ s.phase = .finalized := by
      grind [State.inCall, legalPhases]
    rw [(resultOf_key s rfl).2.1]
    exact inv.call_keyed called

theorem unkeyed_after {i : Instr} {s : State} (inv : s.Inv) (h : (resultOf i s).keyed = false) :
    (resultOf i s).K = ⟨0#64, 0#64⟩ ∧ (resultOf i s).var = .v0 := by
  cases hl : Claims.loadsKey i
  · obtain ⟨same_K, same_keyed, same_var⟩ := resultOf_key s hl
    rw [same_K, same_var]
    exact inv.unkeyed_clear (same_keyed ▸ h)
  · cases i with
    | keyld => cases h
    | _ => cases hl

/-- After KEYLD every register but the key and the variant is clear (R120). -/
theorem uninit_after {i : Instr} {s : State} (executes : commandFault i s = none)
    (h : (resultOf i s).phase = .uninit) :
    (resultOf i s).S = Sponge.zero ∧ (resultOf i s).dir = .sealing ∧ (resultOf i s).tagValid = false ∧
      (resultOf i s).verdict = .none ∧ (resultOf i s).doutLen = 0 := by
  rw [resultOf_phase executes] at h
  cases i with
  | keyld => exact ⟨rfl, rfl, rfl, rfl, rfl⟩
  | _ => cases h

/-- FINALIZED is left by FINAL and RDTAG with a tag, by VERIFY with a verdict (44_final_tag.md R160 to R166). -/
theorem finalized_after {i : Instr} {s : State} (executes : commandFault i s = none)
    (h : (resultOf i s).phase = .finalized) :
    i = .final ∨ i = .rdtag ∨ ∃ d, i = .verify d := by
  rw [resultOf_phase executes] at h
  cases i with
  | final => exact .inl rfl
  | rdtag => exact .inr (.inl rfl)
  | verify d => exact .inr (.inr ⟨d, rfl⟩)
  | _ => cases h

/-- The AD phase begins and goes on without output (R57). -/
theorem no_output_in_adPhase {i : Instr} {s : State} (executes : commandFault i s = none)
    (h : (resultOf i s).phase = .initialized ∨ (resultOf i s).phase = .absorbAd) : (resultOf i s).doutLen = 0 := by
  rw [resultOf_phase executes] at h
  cases i with
  | init | ad => rfl
  | _ => simp [phaseAfter] at h

theorem tag_phase_after {i : Instr} {s : State} (inv : s.Inv) (executes : commandFault i s = none)
    (h : (resultOf i s).tagValid = true) :
    (resultOf i s).phase = .finalized ∧ (resultOf i s).verdict = .none := by
  obtain rfl | rfl := tag_after inv executes h
  · have before : s.phase = .dataDone := by simpa [legalPhases] using legal_of_executes executes
    exact ⟨rfl, (no_tag_no_verdict inv (by simp [before])).2⟩
  · simpa [resultOf] using inv.tag_phase (by simpa [resultOf] using h)

theorem verdict_phase_after {i : Instr} {s : State} (inv : s.Inv) (executes : commandFault i s = none)
    (h : (resultOf i s).verdict ≠ .none) :
    (resultOf i s).phase = .finalized ∧ (resultOf i s).tagValid = false ∧ (resultOf i s).dir = .opening ∧
      (resultOf i s).S = Sponge.zero := by
  obtain ⟨d, rfl⟩ := verdict_after inv executes h
  have call : s.tagValid = true ∧ s.dir = .opening := by simpa using callConditions_of_executes executes
  exact ⟨resultOf_phase executes, rfl, call.2, rfl⟩

theorem tag_or_verdict_after {i : Instr} {s : State} (executes : commandFault i s = none)
    (h : (resultOf i s).phase = .finalized) : (resultOf i s).tagValid = true ∨ (resultOf i s).verdict ≠ .none := by
  obtain rfl | rfl | ⟨d, rfl⟩ := finalized_after executes h
  · exact .inl rfl
  · have call : s.tagValid = true ∧ s.dir = .sealing := by simpa using callConditions_of_executes executes
    simp [resultOf, call]
  · exact .inr (verdictOf_ne_none _ _)

theorem dout_in_finalized {i : Instr} {s : State} (executes : commandFault i s = none)
    (h : (resultOf i s).phase = .finalized) :
    (resultOf i s).doutLen = 0 ∨
      ((resultOf i s).doutLen = 16 ∧ (resultOf i s).dir = .sealing ∧ (resultOf i s).tagValid = true) := by
  obtain rfl | rfl | ⟨d, rfl⟩ := finalized_after executes h
  · exact .inl rfl
  · have call : s.tagValid = true ∧ s.dir = .sealing := by simpa using callConditions_of_executes executes
    simp [resultOf, call]
  · exact .inl rfl

/-- `ERR` is zero outside FAULT (R32), and no command executes in FAULT or leaves it. -/
theorem err_after {i : Instr} {s : State} (inv : s.Inv) (executes : commandFault i s = none) :
    (resultOf i s).err = .none ↔ (resultOf i s).phase ≠ .fault := by
  have before : s.phase ≠ .fault := fun hf => fault_not_legal i (hf ▸ legal_of_executes executes)
  have after : (resultOf i s).phase ≠ .fault := resultOf_phase executes ▸ phaseAfter_ne_fault i
  simp [after, inv.err_iff_fault.mpr before]

theorem resultOf_inv {i : Instr} {s : State} (inv : s.Inv) (executes : commandFault i s = none) :
    (resultOf i s).Inv where
  doutLen_le := by
    rw [resultOf_doutLen, bytesOut_length executes]
    exact bytesProduced_le executes
  dout_tail := fun k hk hb => by
    rw [resultOf_doutLen] at hb
    simpa only [resultOf_dout] using blockOf_get_beyond _ k hk hb
  fault_cleared := fun h => absurd (resultOf_phase executes ▸ h) (phaseAfter_ne_fault i)
  err_iff_fault := err_after inv executes
  uninit_clear := uninit_after executes
  call_keyed := keyed_after inv executes
  unkeyed_clear := unkeyed_after inv
  tag_phase := tag_phase_after inv executes
  verdict_phase := verdict_phase_after inv executes
  finalized_tag := tag_or_verdict_after executes
  finalized_dout := dout_in_finalized executes
  ad_dout := no_output_in_adPhase executes

/-- Settles O44: a step waits, resets, faults or executes a command (`step_outcomes`), and each of them leaves the
invariant; `resultOf_inv` is the one that has work to do. -/
theorem everyStepKeepsTheInvariant : Obligations.EveryStepKeepsTheInvariant := by
  intro s t inv hstep
  obtain ⟨-, rfl⟩ | ⟨rest, -, rfl⟩ | ⟨c, rest, -, ⟨-, rfl⟩ | ⟨-, x, hx, rfl⟩ | ⟨-, i, -, executes, rfl⟩⟩ :=
    step_outcomes hstep
  · exact inv
  · exact resetValues_inv rest
  · exact inv_of_port inv rest
  · exact faulted_inv hx _
  · exact resultOf_inv (inv_of_port inv rest) executes

/-- Settles O45: the reset values with no event pending. -/
theorem resetStateMeetsTheInvariant : Obligations.ResetStateMeetsTheInvariant := resetValues_inv []

/-! ### Reset (R42, R230) -/

/-- Settles O6: the reset state is written with these values. -/
theorem resetValuesAreTheTable : Obligations.ResetValuesAreTheTable := rfl

/-- Settles O7: the step takes the event and resets (`State.takeReset`), and the reset values encode to the zero word. -/
theorem resetEventClearsEverything : Obligations.ResetEventClearsEverything := by
  intro s rest hport
  constructor
  · simp only [step, s.accept_cons .rst rest hport]
    rfl
  · simp [State.st, Claims.resetValues, Phase.code, varCode, dirCode, Verdict.code, Cause.code]

/-! ### The phase (R36) -/

/-- A command that executes in a call leaves it no earlier in the call. -/
theorem callRank_le_phaseAfter {i : Instr} {s : State} (legal : s.phase ∈ legalPhases i) (call : s.inCall = true) :
    Claims.callRank s.phase ≤ Claims.callRank (phaseAfter i) := by
  cases i with
  | keyld | init | rdtag | verify | rawen | ldsw | rdsw | perm =>
    grind [State.inCall, legalPhases]
  | ad | adl | enc | encl | dec | decl | final =>
    grind [legalPhases, phaseAfter, Claims.callRank]

theorem callRank_le_fault (p : Phase) : Claims.callRank p ≤ Claims.callRank .fault := by
  cases p <;> decide

/-- INITIALIZED is the phase after INIT alone, which is legal in an idle phase and with a key (R121). -/
theorem init_of_initialized {i : Instr} {s : State} (executes : commandFault i s = none)
    (h : phaseAfter i = .initialized) : (∃ r d, i = .init r d) ∧ Claims.Idle s ∧ s.keyed = true := by
  obtain ⟨legal, -, keyed, -⟩ := conditions_of_executes executes
  cases i with
  | init r d => exact ⟨⟨r, d, rfl⟩, by simpa [legalPhases] using legal, keyed rfl⟩
  | _ => cases h

/-- Settles O37: each part is read off the three outcomes of a command. -/
theorem phaseFollowsTheTransitionTable : Obligations.PhaseFollowsTheTransitionTable := by
  intro i s t hexec
  obtain ⟨hf, rfl⟩ | ⟨hf, x, faults, rfl⟩ | ⟨hf, executes, rfl⟩ := exec_outcomes hexec
  · exact ⟨fun _ => rfl, fun h => absurd hf h, fun h => absurd hf h, fun _ => le_rfl, by simp [hf]⟩
  · refine ⟨fun h => absurd h hf, ?_, ?_, fun _ => callRank_le_fault _, nofun⟩
    · simp [faults]
    · intro _ y hy
      rw [faults] at hy
      cases hy
      rfl
  · refine ⟨fun h => absurd h hf, fun _ _ => resultOf_phase executes, ?_, ?_, ?_⟩
    · simp [executes]
    · rw [resultOf_phase executes]
      exact callRank_le_phaseAfter (legal_of_executes executes)
    · rw [resultOf_phase executes]
      exact init_of_initialized executes

/-! ### What a command writes (R32, R37) -/

/-- Settles O38: the registers' frame lemmas on the command's result. -/
theorem commandsWriteOnlyTheirRegisters : Obligations.CommandsWriteOnlyTheirRegisters := by
  intro i s t hf executes hexec
  rw [exec_executes hf executes] at hexec
  cases hexec
  refine ⟨resultOf_key s, resultOf_dir s, resultOf_tagValid s, resultOf_verdict s, ?_, ?_, ?_,
    resultOf_err i s, resultOf_port i s⟩
  · rintro n rfl
    simp [resultOf]
  · rintro rfl
    simp [resultOf]
  · rintro n d rfl j hj
    exact s.S.get_set_other n j _ hj

/-! ### The key (R22, R30) -/

theorem keyOf_eq (d : Block) : keyOf d = ⟨be64 (d.toList.take 8), be64 (d.toList.drop 8)⟩ := by
  simp [keyOf, word0, word1, be64_take]

/-- Settles O39: reset and fault clear the key, an executed KEYLD loads it, every other command keeps it. -/
theorem keyChangesOnlyByKeyldFaultOrReset : Obligations.KeyChangesOnlyByKeyldFaultOrReset := by
  intro s t hstep
  obtain ⟨-, rfl⟩ | ⟨rest, hp, rfl⟩ | ⟨c, rest, hp, ⟨-, rfl⟩ | ⟨-, x, -, rfl⟩ | ⟨-, i, hd, executes, rfl⟩⟩ :=
    step_outcomes hstep
  · exact .inl ⟨rfl, rfl, rfl⟩
  · exact .inr (.inr ⟨.inr ⟨rest, hp⟩, rfl, rfl, rfl⟩)
  · exact .inl ⟨rfl, rfl, rfl⟩
  · exact .inr (.inr ⟨.inl rfl, rfl, rfl, rfl⟩)
  · cases hl : Claims.loadsKey i
    · exact .inl (resultOf_key _ hl)
    · cases i with
      | keyld v d =>
        have idle : Claims.Idle s := by simpa [legalPhases] using legal_of_executes executes
        exact .inr (.inl ⟨c, rest, v, d, hp, hd, idle, keyOf_eq d, rfl, rfl⟩)
      | _ => cases hl

/-- R37: with another key in `K`, a command that does not touch `K` leaves the same but for `K`. -/
theorem resultOf_other_key {i : Instr} (h : Claims.touchesKey i = false) (s : State) (k : KeyReg) :
    resultOf i { s with K := k } = { resultOf i s with K := k } := by
  cases i with
  | keyld | init | final => cases h
  | _ => rfl

/-- Settles O40: neither the fault of such a command nor its result depends on `K`, and a fault clears `K`. -/
theorem onlyInitAndFinalReadTheKey : Obligations.OnlyInitAndFinalReadTheKey := by
  intro i s t k untouched hf hexec
  have same_fault := commandFault_congr i s s.S k
  obtain ⟨h, -⟩ | ⟨-, x, faults, rfl⟩ | ⟨-, executes, rfl⟩ := exec_outcomes hexec
  · exact absurd h hf
  · rw [exec_faults (s := { s with K := k }) hf (same_fault.trans faults)]
    rfl
  · have not_fault : (resultOf i s).phase ≠ .fault := resultOf_phase executes ▸ phaseAfter_ne_fault i
    rw [exec_executes (s := { s with K := k }) hf (same_fault.trans executes), resultOf_other_key untouched,
      if_neg not_fault]

/-! ### The data-out register (R24) -/

/-- Settles O42: `DOUT` is the bytes produced and then zeros (`resultOf_dout`), their number the table's. -/
theorem doutHoldsTheProducedBytes : Obligations.DoutHoldsTheProducedBytes := by
  intro i s t hf executes hexec
  rw [exec_executes hf executes] at hexec
  cases hexec
  have inTable := bytesOut_length executes
  rw [resultOf_doutLen, resultOf_dout]
  refine ⟨inTable, inTable ▸ bytesProduced_le executes, fun k hk hb => blockOf_get_beyond _ k hk hb, fun none_out => ?_⟩
  rw [List.length_eq_zero_iff.mp (inTable.trans none_out)]
  exact blockOf_nil

/-! ### The status word (R41) -/

/-- Two fields that do not overlap add up. -/
theorem or_shiftLeft_eq_add {x k : Nat} (y : Nat) (h : x < 2 ^ k) : x ||| y <<< k = x + y * 2 ^ k := by
  rw [Nat.lor_comm, ← Nat.shiftLeft_add_eq_or_of_lt h, Nat.shiftLeft_eq, Nat.add_comm]

theorem phaseCode_lt (p : Phase) : p.code < 8 := by cases p <;> decide
theorem verdictCode_lt (v : Verdict) : v.code < 4 := by cases v <;> decide
theorem causeCode_lt (c : Cause) : c.code < 16 := by cases c <;> decide
theorem varCode_lt (v : Variant) : varCode v < 2 := by cases v <;> decide
theorem dirCode_lt (d : Dir) : dirCode d < 2 := by cases d <;> decide

/-- Each field's number fits its place in `ST`. -/
theorem fields_lt (s : State) :
    s.phase.code < 8 ∧ s.keyed.toNat < 2 ∧ varCode s.var < 2 ∧ dirCode s.dir < 2 ∧ s.tagValid.toNat < 2 ∧
      s.verdict.code < 4 ∧ s.err.code < 16 :=
  ⟨phaseCode_lt _, s.keyed.toNat_lt, varCode_lt _, dirCode_lt _, s.tagValid.toNat_lt, verdictCode_lt _, causeCode_lt _⟩

/-- `ST` as a number: the eight fields at their places. -/
theorem st_toNat (s : State) (h : s.doutLen ≤ 16) :
    s.st.toNat = s.phase.code + s.keyed.toNat * 2 ^ 3 + varCode s.var * 2 ^ 4 + dirCode s.dir * 2 ^ 5 +
      s.tagValid.toNat * 2 ^ 6 + s.verdict.code * 2 ^ 7 + s.err.code * 2 ^ 9 + s.doutLen * 2 ^ 13 := by
  obtain ⟨phase_lt, keyed_lt, var_lt, dir_lt, tag_lt, verdict_lt, err_lt⟩ := fields_lt s
  unfold State.st
  rw [or_shiftLeft_eq_add (k := 3), or_shiftLeft_eq_add (k := 4), or_shiftLeft_eq_add (k := 5),
    or_shiftLeft_eq_add (k := 6), or_shiftLeft_eq_add (k := 7), or_shiftLeft_eq_add (k := 9),
    or_shiftLeft_eq_add (k := 13), BitVec.toNat_ofNat, Nat.mod_eq_of_lt]
  all_goals omega

/-- A one-bit field of a word. -/
theorem getLsbD_of_div_mod {w k : Nat} {x : BitVec w} {b : Bool} (h : x.toNat / 2 ^ k % 2 = b.toNat) :
    x.getLsbD k = b := by
  rw [← BitVec.testBit_toNat, Nat.testBit_eq_decide_div_mod_eq, h]
  cases b <;> rfl

/-- A wider field of a word. -/
theorem extractLsb'_toNat_of_div_mod {w k n v : Nat} {x : BitVec w} (h : x.toNat / 2 ^ k % 2 ^ n = v) :
    (x.extractLsb' k n).toNat = v := by
  rw [BitVec.extractLsb'_toNat, Nat.shiftRight_eq_div_pow, h]

theorem varCode_eq_toNat (v : Variant) : varCode v = (decide (v = .v1)).toNat := by cases v <;> rfl
theorem dirCode_eq_toNat (d : Dir) : dirCode d = (decide (d = .opening)).toNat := by cases d <;> rfl

theorem st_of_secrets (s : State) (S' : Sponge) (K' : KeyReg) (d : Block) :
    { s with S := S', K := K', dout := d }.st = s.st := rfl

/-- Settles O43: every field is cut out of the sum of `st_toNat`. -/
theorem statusWordHoldsTheFields : Obligations.StatusWordHoldsTheFields := by
  intro s h
  have word := st_toNat s h
  obtain ⟨phase_lt, keyed_lt, var_lt, dir_lt, tag_lt, verdict_lt, err_lt⟩ := fields_lt s
  refine ⟨extractLsb'_toNat_of_div_mod ?phase, getLsbD_of_div_mod ?keyed, getLsbD_of_div_mod ?var,
    getLsbD_of_div_mod ?dir, getLsbD_of_div_mod ?tagValid, extractLsb'_toNat_of_div_mod ?verdict,
    extractLsb'_toNat_of_div_mod ?err, extractLsb'_toNat_of_div_mod ?doutLen,
    BitVec.eq_of_toNat_eq (extractLsb'_toNat_of_div_mod ?zero), st_of_secrets s⟩
  case var => rw [← varCode_eq_toNat]; omega
  case dir => rw [← dirCode_eq_toNat]; omega
  case zero => rw [BitVec.toNat_zero]; omega
  all_goals omega

/-! ### The fault cause (R32) -/

/-- Settles O41: outside FAULT the invariant has `ERR` at 0, in FAULT no step but reset has an effect, and only a fault
writes `ERR`. -/
theorem errIsWrittenOnceUntilReset : Obligations.ErrIsWrittenOnceUntilReset := by
  intro s t inv hstep
  obtain ⟨-, -, -, -, -, -, in_st, -⟩ := statusWordHoldsTheFields s inv.doutLen_le
  obtain ⟨hp, rfl⟩ | ⟨rest, hp, rfl⟩ | ⟨c, rest, hp, ⟨-, rfl⟩ | ⟨hf, x, -, rfl⟩ | ⟨-, i, -, -, rfl⟩⟩ :=
    step_outcomes hstep
  · exact ⟨by simp [hp], fun _ _ => rfl, fun h h' => absurd h h', in_st⟩
  · exact ⟨fun _ _ => rfl, fun _ no_rst => absurd hp (no_rst rest), fun _ h => absurd rfl h, in_st⟩
  · exact ⟨by simp [hp], fun _ _ => rfl, fun h h' => absurd h h', in_st⟩
  · exact ⟨by simp [hp], fun h => absurd (inv.err_iff_fault.mpr hf) h, fun _ _ => ⟨hf, rfl⟩, in_st⟩
  · have same_err : (resultOf i { s with port := rest }).err = s.err := resultOf_err i _
    exact ⟨by simp [hp], fun _ _ => same_err, fun h h' => absurd (same_err.trans h) h', in_st⟩

/-! ### What the host sees of a call (R21) -/

theorem bytesBe_injective : Function.Injective bytesBe := Function.LeftInverse.injective be64_bytesBe

/-- The rate portion as words: `S[0]`, and for V1 `S[1]` (R52). -/
theorem rateBytes_eq_iff (v : Variant) (S T : Sponge) :
    rateBytes v S = rateBytes v T ↔ S.x0 = T.x0 ∧ (v = .v1 → S.x1 = T.x1) := by
  cases v with
  | v0 => simp [rateBytes, bytesBe_injective.eq_iff]
  | v1 =>
    simp only [rateBytes, forall_const]
    rw [List.append_eq_append_iff_of_size_eq_left (by simp)]
    simp [bytesBe_injective.eq_iff]

/-- Absorbing a block keeps equal rate portions equal. -/
theorem rateBytes_xorRate_congr {v : Variant} {S T : Sponge} (h : rateBytes v S = rateBytes v T) (b : List Byte) :
    rateBytes v (xorRate v b S) = rateBytes v (xorRate v b T) := by
  rw [rateBytes_eq_iff] at h ⊢
  cases v <;> simp_all [xorRate]

/-- The entry step of a data command writes a capacity word only (R134, R140). -/
theorem rateBytes_dataEntry (v : Variant) (s : State) : rateBytes v s.dataEntry = rateBytes v s.S := by
  unfold State.dataEntry
  split <;> rfl

/-- In a call the bytes a command puts out depend on the rate portion alone. -/
theorem bytesOut_congr {i : Instr} {s : State} (call : s.inCall = true) (executes : commandFault i s = none)
    {S' : Sponge} (rate_eq : rateBytes s.var S' = rateBytes s.var s.S) (K' : KeyReg) :
    bytesOut i { s with S := S', K := K' } = bytesOut i s := by
  have legal := legal_of_executes executes
  have entry_eq : rateBytes s.var (State.dataEntry { s with S := S', K := K' }) = rateBytes s.var s.dataEntry := by
    rw [rateBytes_dataEntry, rateBytes_dataEntry, rate_eq]
  cases i with
  | enc d => exact rateBytes_xorRate_congr entry_eq _
  | encl n d => exact congrArg (List.take n) (rateBytes_xorRate_congr entry_eq _)
  | dec d | decl n d => exact congrArg (xorBytes _) entry_eq
  | rdtag | rdsw => grind [State.inCall, legalPhases]
  | _ => rfl

/-- In a call no register that `ST` holds is made from `S` or `K`: VERIFY, whose verdict is, is a command of no call. -/
theorem resultOf_st_congr {i : Instr} {s : State} (call : s.inCall = true) (executes : commandFault i s = none)
    (S' : Sponge) (K' : KeyReg) : (resultOf i { s with S := S', K := K' }).st = (resultOf i s).st := by
  have legal := legal_of_executes executes
  cases i with
  | verify => grind [State.inCall, legalPhases]
  | _ => simp [State.st, resultOf]

/-- Settles O52: the fault is the same (`commandFault_congr`), and so is what an executed command puts out
(`bytesOut_congr`) and reports (`resultOf_st_congr`). -/
theorem capacityNeverReachesDout : Obligations.CapacityNeverReachesDout := by
  intro i s t t' S' K' call rate_eq hexec hexec'
  have not_fault : s.phase ≠ .fault := by
    intro hf
    simp [State.inCall, hf] at call
  have same_fault := commandFault_congr i s S' K'
  obtain ⟨h, -⟩ | ⟨-, x, faults, rfl⟩ | ⟨-, executes, rfl⟩ := exec_outcomes hexec
  · exact absurd h not_fault
  · rw [exec_faults (s := { s with S := S', K := K' }) not_fault (same_fault.trans faults)] at hexec'
    cases hexec'
    exact ⟨rfl, rfl, rfl⟩
  · rw [exec_executes (s := { s with S := S', K := K' }) not_fault (same_fault.trans executes)] at hexec'
    cases hexec'
    have out_eq := bytesOut_congr call executes rate_eq K'
    simp only [resultOf_dout, resultOf_doutLen, out_eq, true_and]
    exact resultOf_st_congr call executes S' K'

end Sys2Proof.Proofs

/-! PROOF. The statements of 20_memory.md: the rate portion as bytes (R52), the operand bytes a command does not consume
(R56), and the step of a presented command (R58, R62, R65). -/

namespace Sys2Proof.Proofs

open Sys2Proof Sys2Proof.Machine

/-! ### The rate portion as bytes (R52) -/

/-- R52: byte `k` of the rate portion is byte `k mod 8` of `S[k div 8]`. -/
theorem rateBytes_getElem? (v : Variant) (S : Sponge) (k : Nat) (hk : k < rate v) :
    (rateBytes v S)[k]? = some ((S.get (k / 8)).extractLsb' (56 - 8 * (k % 8)) 8) := by
  obtain low | high : k < 8 ∨ 8 ≤ k := Nat.lt_or_ge k 8
  · have in_first : (rateBytes v S)[k]? = (bytesBe S.x0)[k]? := by
      cases v with
      | v0 => rfl
      | v1 => exact List.getElem?_append_left low
    rw [in_first, bytesBe_getElem? _ k low, Nat.div_eq_of_lt low, Nat.mod_eq_of_lt low]
    rfl
  · cases v with
    | v0 => exact absurd hk (Nat.not_lt.mpr high)
    | v1 =>
      have in_range : k < 16 := hk
      have word : k / 8 = 1 := by omega
      have place : k % 8 = k - 8 := by omega
      rw [rateBytes, List.getElem?_append_right high, bytesBe_length, bytesBe_getElem? _ _ (by omega), word, place]
      rfl

/-- Setting a block of `RATE` bytes and reading the rate portion are inverse. -/
theorem rateBytes_setRateBytes (v : Variant) (b : List Byte) (S : Sponge) (hb : b.length = rate v) :
    rateBytes v (setRateBytes v b S) = b := by
  cases v with
  | v0 => exact bytesBe_be64 b hb
  | v1 =>
    have sixteen : b.length = 16 := hb
    simp only [rateBytes, setRateBytes]
    rw [← be64_take b, bytesBe_be64 _ (by simp [sixteen]), bytesBe_be64 _ (by simp [sixteen]), List.take_append_drop]

/-- XORing a byte string into the bytes of a word XORs its first word. -/
theorem be64_xor_bytesBe (w : Word) (b : List Byte) (hb : 8 ≤ b.length) :
    be64 (xorBytes (bytesBe w) b) = w ^^^ be64 b := by
  rw [be64_xor _ _ (bytesBe_length w).ge hb, be64_bytesBe]

/-- XORing a block is setting the rate portion to its XOR with the block, byte by byte. -/
theorem xorRate_eq_setRateBytes (v : Variant) (b : List Byte) (S : Sponge) (hb : b.length = rate v) :
    xorRate v b S = setRateBytes v (xorBytes (rateBytes v S) b) S := by
  cases v with
  | v0 => simp only [xorRate, setRateBytes, rateBytes, be64_xor_bytesBe _ b hb.ge]
  | v1 =>
    have sixteen : b.length = 16 := hb
    have first_word : be64 (xorBytes (bytesBe S.x0 ++ bytesBe S.x1) b) = S.x0 ^^^ be64 b := by
      rw [be64_xor _ _ (by simp) (by simp [sixteen]), ← be64_take, List.take_left' (bytesBe_length _), be64_bytesBe]
    have second_half : (xorBytes (bytesBe S.x0 ++ bytesBe S.x1) b).drop 8 = xorBytes (bytesBe S.x1) (b.drop 8) := by
      rw [xorBytes, List.drop_zipWith, List.drop_left' (bytesBe_length _), xorBytes]
    simp only [xorRate, setRateBytes, rateBytes, first_word, second_half]
    rw [be64_xor_bytesBe _ _ (by simp [sixteen])]

/-- Setting the rate portion changes no capacity word. -/
theorem setRateBytes_get (v : Variant) (b : List Byte) (S : Sponge) (j : Nat) (hj : rw v ≤ j) :
    (setRateBytes v b S).get j = S.get j := by
  cases v with
  | v0 => exact S.get_set_other 0 j (be64 b) (Nat.ne_of_gt hj)
  | v1 =>
    have beyond : 2 ≤ j := hj
    calc ((S.set 0 (be64 b)).set 1 (be64 (b.drop 8))).get j
      _ = (S.set 0 (be64 b)).get j := Sponge.get_set_other _ 1 j _ (by omega)
      _ = S.get j := S.get_set_other 0 j _ (by omega)

/-- Settles O19: XORing is setting (`xorRate_eq_setRateBytes`), and setting is inverse to reading. -/
theorem rateBytesFollowTheMapping : Obligations.RateBytesFollowTheMapping := by
  refine fun v S => ⟨rateBytes_getElem? v S, rateBytes_length v S, fun b hb => ?_⟩
  rw [xorRate_eq_setRateBytes v b S hb]
  have xor_length : (xorBytes (rateBytes v S) b).length = rate v := by simp [hb]
  exact ⟨rateBytes_setRateBytes v b S hb, rateBytes_setRateBytes v _ S xor_length,
    fun j hj => ⟨setRateBytes_get v b S j hj, setRateBytes_get v _ S j hj⟩⟩

/-! ### The step of a presented command (R58, R62, R65) -/

/-- Settles O5: the step takes the event from the port and executes the command it decodes to. -/
theorem stepRunsTheDecodedCommand : Obligations.StepRunsTheDecodedCommand := by
  intro s c rest i hport hdecode
  simp only [step, s.accept_cons (.command c) rest hport, hdecode]

theorem step_present_decoded (s : State) {c : Command} {i : Instr} (h : decode c = .ok i) :
    step (s.present c) = exec i s :=
  stepRunsTheDecodedCommand (s.present c) c s.port i rfl h

theorem step_present_illegal (s : State) {c : Command} {e : DecodeError} (h : decode c = .error e) :
    step (s.present c) = .next s.illegalCommand := by
  simp only [step, s.accept_present, h]

/-! ### The operand bytes that are ignored (R56) -/

/-- The decoder does nothing with the operand but hand it on (R73). -/
theorem decode_operand (cw : CmdWord) (d d' : Block) :
    decode ⟨cw, d'⟩ = (decode ⟨cw, d⟩).map (withOperand · d') := by
  have handed_on : ∀ r ∈ opcodeRows, r.build cw d' = withOperand (r.build cw d) d' := by
    simp [opcodeRows, withOperand]
  unfold decode
  cases hr : opcodeRows.find? (fun r => r.accepts cw) with
  | none => rfl
  | some r => exact congrArg Except.ok (handed_on r (List.mem_of_find?_eq_some hr))

theorem firstBytes_injective : Function.Injective (firstBytes · 16) := fun d d' h => by
  simpa [firstBytes, List.take_of_length_le, Vector.toList_inj] using h

/-- R57: the result of a command depends on the operand bytes it consumes alone. -/
theorem resultOf_withOperand {i : Instr} {s : State} {d d' : Block}
    (h : firstBytes d (bytesConsumed s.var i) = firstBytes d' (bytesConsumed s.var i)) :
    resultOf (withOperand i d) s = resultOf (withOperand i d') s := by
  cases i with
  | keyld | init | verify =>
    have all_bytes : d = d' := firstBytes_injective h
    rw [all_bytes]
  | ad | enc | dec =>
    have rate_bytes : firstBytes d (rate s.var) = firstBytes d' (rate s.var) := h
    simp only [withOperand, resultOf, rate_bytes]
  | adl len | encl len | decl len =>
    have len_bytes : firstBytes d len = firstBytes d' len := h
    simp only [withOperand, resultOf, len_bytes]
  | ldsw =>
    have first_word : word0 d = word0 d' := by
      rw [word0, word0, ← be64_take d.toList, ← be64_take d'.toList]
      exact congrArg be64 h
    simp only [withOperand, resultOf, first_word]
  | final | rdtag | rawen | rdsw | perm => rfl

/-- R203: no check reads the operand. -/
theorem checksOf_withOperand (i : Instr) (s : State) (d : Block) : checksOf (withOperand i d) s = checksOf i s := by
  cases i <;> rfl

theorem exec_withOperand {i : Instr} {s : State} {d d' : Block}
    (h : firstBytes d (bytesConsumed s.var i) = firstBytes d' (bytesConsumed s.var i)) :
    exec (withOperand i d) s = exec (withOperand i d') s := by
  rw [exec_eq_runCommand, exec_eq_runCommand, checksOf_withOperand, checksOf_withOperand, resultOf_withOperand h]

/-- Settles O46: the two commands decode alike but for the operand (`decode_operand`), and are executed alike
(`exec_withOperand`); an illegal word is illegal with both operands. -/
theorem unusedOperandBytesAreIgnored : Obligations.UnusedOperandBytesAreIgnored := by
  intro s cw d d' agree
  have same := decode_operand cw d d
  have other := decode_operand cw d d'
  cases hd : decode ⟨cw, d⟩ with
  | error e =>
    rw [hd] at other
    rw [step_present_illegal s hd, step_present_illegal s other]
  | ok i =>
    rw [hd] at same other
    rw [step_present_decoded s (hd.trans same), step_present_decoded s other]
    exact exec_withOperand (agree i hd)

end Sys2Proof.Proofs

/-! PROOF. The statements of 30_encoding.md about the decoder and the encoder. First the one field a command uses, as a
place in the word, a width and a value (R71, R74), with the word and the mask they make; then the encoder and the rows of
the opcode map in these terms; then the decoder as the one row that accepts (R73). -/

namespace Sys2Proof.Proofs

open Sys2Proof Sys2Proof.Machine

/-! ### A word with one field (R71) -/

/-- The word with the low bits `o` and the number `n` in the field that starts at bit `p`. -/
def fieldWord (o p n : Nat) : CmdWord := BitVec.ofNat 32 (o ||| n <<< p)

/-- The mask of a row whose command uses the field of `w` bits at `p`: every bit outside it is compared. -/
def fieldMask (p w : Nat) : CmdWord := ~~~fieldWord 0 p (2 ^ w - 1)

theorem getLsbD_fieldWord (o p n i : Nat) :
    (fieldWord o p n).getLsbD i = (decide (i < 32) && (o.testBit i || (decide (p ≤ i) && n.testBit (i - p)))) := by
  simp only [fieldWord, BitVec.getLsbD_ofNat, Nat.testBit_or, Nat.testBit_shiftLeft, ge_iff_le]

theorem getLsbD_fieldMask (p w i : Nat) :
    (fieldMask p w).getLsbD i = (decide (i < 32) && !(decide (p ≤ i) && decide (i - p < w))) := by
  simp only [fieldMask, BitVec.getLsbD_not, getLsbD_fieldWord, Nat.zero_testBit, Nat.testBit_two_pow_sub_one,
    Bool.false_or]
  cases decide (i < 32) <;> rfl

/-- A word that matches outside a field is made of the pattern and of the number in the field. -/
theorem eq_fieldWord_of_masked {cw : CmdWord} {o p w : Nat} (h : cw &&& fieldMask p w = BitVec.ofNat 32 o) :
    cw = fieldWord o p (cw.extractLsb' p w).toNat := by
  refine BitVec.eq_of_getLsbD_eq fun i hi => ?_
  have bit : (cw.getLsbD i && !(decide (p ≤ i) && decide (i - p < w))) = o.testBit i := by
    simpa only [BitVec.getLsbD_and, getLsbD_fieldMask, BitVec.getLsbD_ofNat, hi, decide_true, Bool.true_and]
      using congrArg (·.getLsbD i) h
  rw [getLsbD_fieldWord, BitVec.testBit_toNat, BitVec.getLsbD_extractLsb', ← bit]
  by_cases inside : p ≤ i ∧ i - p < w
  · simp [inside, hi]
  · grind

/-- The bits below a field do not reach into it. -/
theorem testBit_eq_false_of_le {o p i : Nat} (ho : o < 2 ^ p) (hi : p ≤ i) : o.testBit i = false :=
  Nat.testBit_lt_two_pow (ho.trans_le (Nat.pow_le_pow_right two_pos hi))

/-- A number that fits the field leaves the bits outside it as the pattern has them. -/
theorem fieldWord_masked {o p w n : Nat} (ho : o < 2 ^ p) (hn : n < 2 ^ w) :
    fieldWord o p n &&& fieldMask p w = BitVec.ofNat 32 o := by
  refine BitVec.eq_of_getLsbD_eq fun i hi => ?_
  simp only [BitVec.getLsbD_and, getLsbD_fieldWord, getLsbD_fieldMask, BitVec.getLsbD_ofNat, hi, decide_true,
    Bool.true_and]
  obtain below | above : i < p ∨ p ≤ i := Nat.lt_or_ge i p
  · simp [Nat.not_le.mpr below]
  · obtain inside | beyond : i - p < w ∨ w ≤ i - p := Nat.lt_or_ge _ _
    · simp [above, inside, testBit_eq_false_of_le ho above]
    · simp [Nat.not_lt.mpr beyond, testBit_eq_false_of_le hn beyond]

/-- The number in the field is read back. -/
theorem extractLsb'_fieldWord {o p w n : Nat} (ho : o < 2 ^ p) (hn : n < 2 ^ w) (hp : p + w ≤ 32) :
    ((fieldWord o p n).extractLsb' p w).toNat = n := by
  refine Nat.eq_of_testBit_eq fun j => ?_
  rw [BitVec.testBit_toNat, BitVec.getLsbD_extractLsb', getLsbD_fieldWord]
  obtain inside | beyond : j < w ∨ w ≤ j := Nat.lt_or_ge j w
  · have in_word : p + j < 32 := by omega
    simp [inside, in_word, testBit_eq_false_of_le ho (Nat.le_add_right p j)]
  · simp [Nat.not_lt.mpr beyond, testBit_eq_false_of_le hn beyond]

/-! ### The field a command uses (R71, R74) -/

/-- A field of the command word with the number it holds. -/
structure Field where
  place : Nat
  width : Nat
  value : Nat

/-- The field of format C that a command uses; a field of no bits above `OPC` where it uses none. -/
def usedField : Instr → Field
  | .adl len _ | .encl len _ | .decl len _ => ⟨4, 5, len⟩
  | .keyld var _ => ⟨9, 1, variantBit var⟩
  | .init dir _ => ⟨10, 1, dirBit dir⟩
  | .perm nr => ⟨11, 4, nr⟩
  | .ldsw idx _ | .rdsw idx => ⟨15, 3, idx⟩
  | .ad _ | .enc _ | .dec _ | .final | .rdtag | .verify _ | .rawen => ⟨4, 0, 0⟩

/-- Every field stands above the four bits of `OPC`. -/
theorem opc_lt_two_pow_place (i : Instr) : i.opc < 2 ^ (usedField i).place := by
  cases i <;> norm_num [Instr.opc, usedField]

theorem usedField_in_word (i : Instr) : (usedField i).place + (usedField i).width ≤ 32 := by
  cases i <;> norm_num [usedField]

theorem variantBit_le (v : Variant) : variantBit v ≤ 1 := by cases v <;> decide
theorem dirBit_le (d : Dir) : dirBit d ≤ 1 := by cases d <;> decide

/-- A command is well-formed when the number of its field fits the field. -/
theorem wellFormed_iff (i : Instr) : i.wellFormed = true ↔ (usedField i).value < 2 ^ (usedField i).width := by
  cases i <;> simp [Instr.wellFormed, usedField, variantBit_le, dirBit_le]

/-- The encoder writes the opcode and the used field, and zero elsewhere. -/
theorem encode_cw (i : Instr) : (encode i).cw = fieldWord i.opc (usedField i).place (usedField i).value := by
  cases i <;> simp [encode, packCw, fieldWord, usedField, Instr.opc]

theorem encode_din (i : Instr) : (encode i).din = operand i := by cases i <;> rfl

/-! ### Reading `VAR` and `DIR` (R71) -/

theorem toNat_extractLsb'_one (cw : CmdWord) (p : Nat) : (cw.extractLsb' p 1).toNat = (cw.getLsbD p).toNat := by
  rw [BitVec.extractLsb'_toNat, ← BitVec.testBit_toNat, Nat.toNat_testBit, Nat.shiftRight_eq_div_pow]

theorem variantBit_cwVar (cw : CmdWord) : variantBit (cwVar cw) = (cw.extractLsb' 9 1).toNat := by
  rw [toNat_extractLsb'_one, cwVar]
  cases cw.getLsbD 9 <;> rfl

theorem dirBit_cwDir (cw : CmdWord) : dirBit (cwDir cw) = (cw.extractLsb' 10 1).toNat := by
  rw [toNat_extractLsb'_one, cwDir]
  cases cw.getLsbD 10 <;> rfl

theorem variantBit_injective : Function.Injective variantBit := fun v v' => by
  cases v <;> cases v' <;> simp [variantBit]

theorem dirBit_injective : Function.Injective dirBit := fun d d' => by
  cases d <;> cases d' <;> simp [dirBit]

/-! ### The rows of the opcode map (R74) -/

theorem fieldMask_none : fieldMask 4 0 = 0xFFFFFFFF#32 := by decide
theorem fieldMask_len : fieldMask 4 5 = 0xFFFFFE0F#32 := by decide
theorem fieldMask_var : fieldMask 9 1 = 0xFFFFFDFF#32 := by decide
theorem fieldMask_dir : fieldMask 10 1 = 0xFFFFFBFF#32 := by decide
theorem fieldMask_nr : fieldMask 11 4 = 0xFFFF87FF#32 := by decide
theorem fieldMask_idx : fieldMask 15 3 = 0xFFFC7FFF#32 := by decide

/-- Each row asks for its command's opcode and for zero outside the field the command uses, and reads that field. -/
theorem row_describes_build (cw : CmdWord) (din : Block) : ∀ r ∈ opcodeRows,
    r.mnemonic = (r.build cw din).mnemonic ∧
    r.pattern = BitVec.ofNat 32 (r.build cw din).opc ∧
    r.mask = fieldMask (usedField (r.build cw din)).place (usedField (r.build cw din)).width ∧
    (usedField (r.build cw din)).value = (cw.extractLsb' (usedField (r.build cw din)).place
      (usedField (r.build cw din)).width).toNat := by
  simp [opcodeRows, Instr.mnemonic, Instr.opc, usedField, fieldMask_none, fieldMask_len, fieldMask_var, fieldMask_dir,
    fieldMask_nr, fieldMask_idx, variantBit_cwVar, dirBit_cwDir, cwLen, cwNr, cwIdx, Nat.mod_one]

/-- A row hands the operand on to a command that consumes some of it. -/
theorem operand_build (cw : CmdWord) (din : Block) : ∀ r ∈ opcodeRows,
    0 < bytesConsumed .v1 (r.build cw din) → operand (r.build cw din) = din := by
  simp [opcodeRows, bytesConsumed, operand]

/-- Every command is built by a row, from any word that holds the command's number in its field. -/
theorem exists_row_build (i : Instr) (cw : CmdWord)
    (reads : (cw.extractLsb' (usedField i).place (usedField i).width).toNat = (usedField i).value) :
    ∃ r ∈ opcodeRows, r.build cw (operand i) = i := by
  cases i with
  | keyld var d =>
    have var_eq : cwVar cw = var := variantBit_injective ((variantBit_cwVar cw).trans reads)
    simp [opcodeRows, operand, var_eq]
  | init dir d =>
    have dir_eq : cwDir cw = dir := dirBit_injective ((dirBit_cwDir cw).trans reads)
    simp [opcodeRows, operand, dir_eq]
  | adl len | encl len | decl len =>
    have len_eq : cwLen cw = len := reads
    simp [opcodeRows, operand, len_eq]
  | ldsw idx | rdsw idx =>
    have idx_eq : cwIdx cw = idx := reads
    simp [opcodeRows, operand, idx_eq]
  | perm nr =>
    have nr_eq : cwNr cw = nr := reads
    simp [opcodeRows, nr_eq]
  | ad | enc | dec | final | rdtag | verify | rawen => simp [opcodeRows, operand]

/-! ### The row that accepts a word (R73) -/

theorem accepts_iff (r : Row) (cw : CmdWord) : r.accepts cw = true ↔ cw &&& r.mask = r.pattern := by
  simp [Row.accepts]

/-- Every mask keeps the four bits of `OPC`, and no pattern has a bit above them. -/
theorem row_fixes_opc : ∀ r ∈ opcodeRows, r.mask &&& 0xF#32 = 0xF#32 ∧ r.pattern &&& 0xF#32 = r.pattern := by
  simp [opcodeRows]

theorem patterns_nodup : (opcodeRows.map Row.pattern).Nodup := by decide

theorem pattern_of_accepts {r : Row} {cw : CmdWord} (hr : r ∈ opcodeRows) (h : r.accepts cw = true) :
    r.pattern = cw &&& 0xF#32 := by
  obtain ⟨mask_opc, pattern_opc⟩ := row_fixes_opc r hr
  rw [accepts_iff] at h
  rw [← pattern_opc, ← h, BitVec.and_assoc, mask_opc]

/-- At most one row accepts a word: the patterns are its `OPC`, and differ from row to row. -/
theorem row_eq_of_accepts {r r' : Row} {cw : CmdWord} (hr : r ∈ opcodeRows) (hr' : r' ∈ opcodeRows)
    (h : r.accepts cw = true) (h' : r'.accepts cw = true) : r = r' :=
  List.inj_on_of_nodup_map patterns_nodup hr hr' ((pattern_of_accepts hr h).trans (pattern_of_accepts hr' h').symm)

/-- The decoder answers with the command of the one row that accepts. -/
theorem decode_eq_ok_iff (c : Command) (i : Instr) :
    decode c = .ok i ↔ ∃ r ∈ opcodeRows, r.accepts c.cw = true ∧ r.build c.cw c.din = i := by
  unfold decode
  cases found : opcodeRows.find? (fun r => r.accepts c.cw) with
  | none =>
    have none_accepts := List.find?_eq_none.mp found
    exact ⟨nofun, fun ⟨r, hr, accepts, _⟩ => absurd accepts (none_accepts r hr)⟩
  | some r =>
    have hr := List.mem_of_find?_eq_some found
    have accepts : r.accepts c.cw = true := List.find?_some (p := fun r => Row.accepts r c.cw) found
    constructor
    · intro h
      exact ⟨r, hr, accepts, Except.ok.inj h⟩
    · rintro ⟨r', hr', accepts', rfl⟩
      rw [row_eq_of_accepts hr hr' accepts accepts']

/-- A word no row accepts is refused with its class of R75. -/
theorem decode_eq_error {cw : CmdWord} {e : DecodeError} (no_row : ∀ r ∈ opcodeRows, ¬ r.accepts cw = true)
    (reason : rejectReason cw = e) (d : Block) : decode ⟨cw, d⟩ = .error e := by
  rw [decode, List.find?_eq_none.mpr no_row, ← reason]

/-! ### The statements -/

/-- Settles O1: the word of a command holds the command's number in its field, so a row builds the command from it, and
accepts it because nothing is written outside `OPC` and the field. -/
theorem decodeOfEncodeIsTheCommand : Obligations.DecodeOfEncodeIsTheCommand := by
  intro i well_formed
  have fits := (wellFormed_iff i).mp well_formed
  have opc_below := opc_lt_two_pow_place i
  have reads := extractLsb'_fieldWord opc_below fits (usedField_in_word i)
  rw [← encode_cw i] at reads
  obtain ⟨r, hr, built⟩ := exists_row_build i _ reads
  obtain ⟨-, pattern_eq, mask_eq, -⟩ := row_describes_build (encode i).cw (operand i) r hr
  rw [built] at pattern_eq mask_eq
  refine (decode_eq_ok_iff _ _).mpr ⟨r, hr, ?_, by rw [encode_din, built]⟩
  rw [accepts_iff, pattern_eq, mask_eq, encode_cw]
  exact fieldWord_masked opc_below fits

/-- Settles O2: the row that accepts the word fixes every bit outside the field it reads (`eq_fieldWord_of_masked`). -/
theorem encodeOfDecodeIsTheWord : Obligations.EncodeOfDecodeIsTheWord := by
  intro c i decoded
  obtain ⟨r, hr, accepts, rfl⟩ := (decode_eq_ok_iff c i).mp decoded
  obtain ⟨-, pattern_eq, mask_eq, value_eq⟩ := row_describes_build c.cw c.din r hr
  rw [accepts_iff, pattern_eq, mask_eq] at accepts
  refine ⟨?word, ?wellFormed, operand_build c.cw c.din r hr⟩
  case word => rw [encode_cw, value_eq, ← eq_fieldWord_of_masked accepts]
  case wellFormed =>
    rw [wellFormed_iff, value_eq]
    exact BitVec.isLt _

/-- The decoder's rows are the table of R74. -/
theorem opcodeMap_eq : Claims.opcodeMap = opcodeRows.map fun r => ⟨r.mnemonic, r.pattern, r.mask⟩ := rfl

/-- A word matches a row of the table exactly when a row of the decoder with the same mnemonic accepts it. -/
theorem matches_opcodeMap_iff (m : Claims.MapRow) (cw : CmdWord) :
    (m ∈ Claims.opcodeMap ∧ cw &&& m.mask = m.pattern) ↔
      ∃ r ∈ opcodeRows, r.accepts cw = true ∧ m = ⟨r.mnemonic, r.pattern, r.mask⟩ := by
  rw [opcodeMap_eq, List.mem_map]
  constructor
  · rintro ⟨⟨r, hr, rfl⟩, matched⟩
    exact ⟨r, hr, (accepts_iff r cw).mpr matched, rfl⟩
  · rintro ⟨r, hr, accepts, rfl⟩
    exact ⟨⟨r, hr, rfl⟩, (accepts_iff r cw).mp accepts⟩

/-- Settles O3: the decoder answers for the one row that accepts (`decode_eq_ok_iff`), hands the operand on
(`decode_operand`), and a word no row accepts is the illegal command of R204. -/
theorem decodingIsStrictByTheTable : Obligations.DecodingIsStrictByTheTable := by
  intro cw din
  have decoded_matches : ∀ i, decode ⟨cw, din⟩ = .ok i →
      ∃ m ∈ Claims.opcodeMap, m.mnemonic = i.mnemonic ∧ cw &&& m.mask = m.pattern := by
    intro i decoded
    obtain ⟨r, hr, accepts, rfl⟩ := (decode_eq_ok_iff _ _).mp decoded
    obtain ⟨hm, matched⟩ := (matches_opcodeMap_iff _ cw).mpr ⟨r, hr, accepts, rfl⟩
    exact ⟨_, hm, (row_describes_build cw din r hr).1, matched⟩
  refine ⟨decoded_matches, ?matches_decode, ?one_row, ?operand, ?illegal⟩
  case matches_decode =>
    intro m hm matched
    obtain ⟨r, hr, accepts, rfl⟩ := (matches_opcodeMap_iff m cw).mp ⟨hm, matched⟩
    exact ⟨_, (decode_eq_ok_iff _ _).mpr ⟨r, hr, accepts, rfl⟩, (row_describes_build cw din r hr).1.symm⟩
  case one_row =>
    intro m hm m' hm' matched matched'
    obtain ⟨r, hr, accepts, rfl⟩ := (matches_opcodeMap_iff m cw).mp ⟨hm, matched⟩
    obtain ⟨r', hr', accepts', rfl⟩ := (matches_opcodeMap_iff m' cw).mp ⟨hm', matched'⟩
    rw [row_eq_of_accepts hr hr' accepts accepts']
  case operand =>
    intro din' i decoded
    rw [decode_operand cw din din', decoded, Except.map]
  case illegal =>
    intro no_match s
    cases decoded : decode ⟨cw, din⟩ with
    | ok i =>
      obtain ⟨m, hm, -, matched⟩ := decoded_matches i decoded
      exact absurd matched (no_match m hm)
    | error e =>
      rw [step_present_illegal s decoded, State.illegalCommand, raise_eq_faulted]
      exact ⟨fun not_fault => by rw [if_neg not_fault], fun fault => by rw [if_pos fault]⟩

/-- A word that is the word of a well-formed command decodes to that command, with the operand presented beside it. -/
theorem decode_word_of (i : Instr) {cw : CmdWord} (well_formed : i.wellFormed = true) (word : (encode i).cw = cw)
    (d : Block) : decode ⟨cw, d⟩ = .ok (withOperand i d) := by
  have decoded : decode ⟨cw, (encode i).din⟩ = .ok i := by
    subst word
    exact decodeOfEncodeIsTheCommand i well_formed
  rw [decode_operand cw (encode i).din d, decoded, Except.map]

/-- Settles O4: the nine words are the words of their commands (`decode_word_of`), and no row accepts the other three
(`decode_eq_error`). -/
theorem wordsOfTheSpecDecode : Obligations.WordsOfTheSpecDecode := fun d =>
  ⟨decode_word_of (.keyld .v1 d) rfl rfl d, decode_word_of (.init .opening d) rfl rfl d,
    decode_word_of (.adl 15 d) rfl rfl d, decode_word_of (.encl 8 d) rfl rfl d, decode_word_of (.decl 1 d) rfl rfl d,
    decode_word_of (.verify d) rfl rfl d, decode_word_of (.ldsw 4 d) rfl rfl d, decode_word_of (.rdsw 5) rfl rfl d,
    decode_word_of (.perm 12) rfl rfl d, decode_eq_error (by decide) (by decide) d,
    decode_eq_error (by decide) (by decide) d, decode_eq_error (by decide) (by decide) d⟩

end Sys2Proof.Proofs

/-! PROOF. The statements of 40_permutation.md: the three steps of a round and the permutation they make (R90 to R100),
the commands of raw mode (R101 to R104), and the rounds every command and every call runs (R105, 45_sequences.md R185).
Between them stand two parts every command's statement needs: its fault outside its phases, and the illegal words beside
its row. -/

namespace Sys2Proof.Proofs

open Sys2Proof Sys2Proof.Machine

/-! ### Constant addition (R92, R93) -/

/-- Settles O9: twelve values, and the formula at the twelve indices. -/
theorem roundConstantsAreTheTwelve : Obligations.RoundConstantsAreTheTwelve := by
  unfold Obligations.RoundConstantsAreTheTwelve
  decide

/-- R92: the constant is an 8-bit value, zero-extended. -/
theorem roundConstant_eq_setWidth : ∀ i < 12,
    roundConstant i = BitVec.setWidth 64 (BitVec.ofNat 8 ((15 - i) * 16 + i)) := by decide

/-- Settles O10: the constant has no bit above its eight (`roundConstant_eq_setWidth`). -/
theorem constantAdditionTouchesOneByte : Obligations.ConstantAdditionTouchesOneByte := by
  intro i S hi
  have constant := roundConstant_eq_setWidth i hi
  refine ⟨by rw [addConstant, constant], fun j hj => ?_⟩
  rw [addConstant, constant, BitVec.getLsbD_xor, BitVec.getLsbD_setWidth, BitVec.getLsbD_of_ge _ _ hj]
  simp

theorem addConstant_involutive (i : Nat) : Function.Involutive (addConstant i) := fun S => by
  simp [addConstant]

/-! ### The substitution layer (R94 to R96) -/

/-- The number whose five bits are given, the first the most significant (R95). -/
def fiveBits (b0 b1 b2 b3 b4 : Bool) : Nat :=
  b0.toNat * 16 + b1.toNat * 8 + b2.toNat * 4 + b3.toNat * 2 + b4.toNat

theorem column_eq_fiveBits (S : Sponge) (j : Nat) : column S j =
    fiveBits (S.x0.getLsbD j) (S.x1.getLsbD j) (S.x2.getLsbD j) (S.x3.getLsbD j) (S.x4.getLsbD j) := rfl

theorem fiveBits_lt : ∀ b0 b1 b2 b3 b4, fiveBits b0 b1 b2 b3 b4 < 32 := by decide

theorem column_lt (S : Sponge) (j : Nat) : column S j < 32 := fiveBits_lt _ _ _ _ _

/-- Settles O11: the formulas work bit by bit, so a column after them is a function of the five bits before, which
is the table's on all 32 values. -/
theorem substitutionIsTheSboxOnColumns : Obligations.SubstitutionIsTheSboxOnColumns := by
  intro S j hj
  refine ⟨column_lt S j, ?_⟩
  simp only [column_eq_fiveBits, substitute_eq, substitutionFormulas, BitVec.getLsbD_xor, BitVec.getLsbD_and,
    BitVec.getLsbD_not, hj, decide_true, Bool.true_and]
  generalize S.x0.getLsbD j = b0, S.x1.getLsbD j = b1, S.x2.getLsbD j = b2, S.x3.getLsbD j = b3,
    S.x4.getLsbD j = b4
  revert b0 b1 b2 b3 b4
  decide

theorem testBit_fiveBits : ∀ b0 b1 b2 b3 b4,
    (fiveBits b0 b1 b2 b3 b4).testBit 4 = b0 ∧ (fiveBits b0 b1 b2 b3 b4).testBit 3 = b1 ∧
    (fiveBits b0 b1 b2 b3 b4).testBit 2 = b2 ∧ (fiveBits b0 b1 b2 b3 b4).testBit 1 = b3 ∧
    (fiveBits b0 b1 b2 b3 b4).testBit 0 = b4 := by decide

/-- R95: word 0 supplies the most significant bit of a column, word 4 the least. -/
theorem testBit_column (S : Sponge) (j : Nat) {i : Nat} (hi : i ≤ 4) :
    (column S j).testBit (4 - i) = (S.get i).getLsbD j := by
  obtain ⟨bit0, bit1, bit2, bit3, bit4⟩ := testBit_fiveBits (S.x0.getLsbD j) (S.x1.getLsbD j) (S.x2.getLsbD j)
    (S.x3.getLsbD j) (S.x4.getLsbD j)
  interval_cases i <;> assumption

/-- A state is its 64 columns. -/
theorem eq_of_columns {S T : Sponge} (h : ∀ j < 64, column S j = column T j) : S = T :=
  Sponge.ext_get S T fun i hi => BitVec.eq_of_getLsbD_eq fun j hj => by
    rw [← testBit_column S j hi, h j hj, testBit_column T j hi]

theorem sbox_nodup : Claims.sbox.Nodup := by decide

/-- A value is read back from the S-box's entry for it. -/
theorem sbox_injOn {v w : Nat} (hv : v < 32) (hw : w < 32) (h : Claims.sbox.getD v 0 = Claims.sbox.getD w 0) :
    v = w := by
  rw [List.getD_eq_getElem _ _ hv, List.getD_eq_getElem _ _ hw] at h
  exact sbox_nodup.getElem_inj_iff.mp h

theorem substitute_injective : Function.Injective substitute := fun S T h =>
  eq_of_columns fun j hj => sbox_injOn (column_lt S j) (column_lt T j) <| by
    rw [← (substitutionIsTheSboxOnColumns S j hj).2, h, (substitutionIsTheSboxOnColumns T j hj).2]

/-- There are finitely many 320-bit states, so that a one-to-one map of them is a bijection. -/
theorem finite_sponge : Finite Sponge :=
  Finite.of_injective (fun S => (S.x0, S.x1, S.x2, S.x3, S.x4)) fun S T h => by
    cases S
    cases T
    simpa using h

theorem bijective_of_injective {f : Sponge → Sponge} (h : Function.Injective f) : Function.Bijective f :=
  have := finite_sponge
  Finite.injective_iff_bijective.mp h

/-- Settles O12: no entry occurs twice, so the columns, and with them the state, are read back
(`substitute_injective`). -/
theorem substitutionIsInvertible : Obligations.SubstitutionIsInvertible :=
  ⟨sbox_nodup, by decide, bijective_of_injective substitute_injective⟩

/-! ### The linear layer (R97) -/

/-- A rotation to the right by `n` brings bit `j + n` to the place of bit `j`. -/
theorem getLsbD_rotateRight_word (x : Word) (n : Nat) {j : Nat} (hj : j < 64) :
    (x.rotateRight n).getLsbD j = x.getLsbD ((j + n) % 64) := by
  rw [BitVec.getLsbD_rotateRight]
  by_cases low : j < 64 - n % 64
  · have place : n % 64 + j = (j + n) % 64 := by omega
    simp [low, place]
  · have place : j - (64 - n % 64) = (j + n) % 64 := by omega
    simp [low, hj, place]

theorem rotateRight_xor (x y : Word) (n : Nat) :
    (x ^^^ y).rotateRight n = x.rotateRight n ^^^ y.rotateRight n := by
  refine BitVec.eq_of_getLsbD_eq fun j hj => ?_
  simp only [BitVec.getLsbD_xor, getLsbD_rotateRight_word _ _ hj]

theorem rotateRight_rotateRight (x : Word) (m n : Nat) : (x.rotateRight m).rotateRight n = x.rotateRight (m + n) := by
  refine BitVec.eq_of_getLsbD_eq fun j hj => ?_
  have place : ((j + n) % 64 + m) % 64 = (j + (m + n)) % 64 := by omega
  rw [getLsbD_rotateRight_word _ _ hj, getLsbD_rotateRight_word _ _ hj,
    getLsbD_rotateRight_word _ _ (Nat.mod_lt _ (by decide)), place]

theorem rotateRight_of_dvd (x : Word) {n : Nat} (h : 64 ∣ n) : x.rotateRight n = x := by
  refine BitVec.eq_of_getLsbD_eq fun j hj => ?_
  have place : (j + n) % 64 = j := by omega
  rw [getLsbD_rotateRight_word _ _ hj, place]

/-- A word of the linear layer for two amounts of any size. -/
def diffusedWord (a b : Nat) (x : Word) : Word := x ^^^ x.rotateRight a ^^^ x.rotateRight b

theorem diffuseWord_eq_diffusedWord {r : Rotations} (amounts : r.first < 64 ∧ r.second < 64) :
    diffuseWord r = diffusedWord r.first r.second := by
  funext x
  rw [diffuseWord_eq, ror64_eq_rotateRight x _ amounts.1, ror64_eq_rotateRight x _ amounts.2, diffusedWord]

theorem getLsbD_diffusedWord (a b : Nat) (x : Word) {j : Nat} (hj : j < 64) :
    (diffusedWord a b x).getLsbD j = Claims.diffusedBit x a b j := by
  simp only [diffusedWord, Claims.diffusedBit, BitVec.getLsbD_xor, getLsbD_rotateRight_word _ _ hj]

theorem diffusedWord_xor (a b : Nat) (x y : Word) :
    diffusedWord a b (x ^^^ y) = diffusedWord a b x ^^^ diffusedWord a b y := by
  simp only [diffusedWord, rotateRight_xor]
  ac_rfl

/-- Over GF(2) squaring a sum squares its terms: twice with the amounts `a` and `b` is once with `2a` and `2b`. -/
theorem diffusedWord_twice (a b : Nat) : diffusedWord a b ∘ diffusedWord a b = diffusedWord (2 * a) (2 * b) := by
  funext x
  have cancel (y p q r : Word) : y ^^^ (p ^^^ p) ^^^ (q ^^^ q) ^^^ (r ^^^ r) = y := by simp
  simp only [Function.comp_apply, diffusedWord, rotateRight_xor, rotateRight_rotateRight, two_mul, Nat.add_comm b a]
  rw [← cancel (x ^^^ x.rotateRight (a + a) ^^^ x.rotateRight (b + b)) (x.rotateRight a) (x.rotateRight b)
    (x.rotateRight (a + b))]
  ac_rfl

theorem diffusedWord_eq_id {a b : Nat} (ha : 64 ∣ a) (hb : 64 ∣ b) : diffusedWord a b = id := by
  funext x
  simp [diffusedWord, rotateRight_of_dvd x ha, rotateRight_of_dvd x hb]

theorem diffusedWord_bijective_of_twice {a b : Nat} (h : Function.Bijective (diffusedWord (2 * a) (2 * b))) :
    Function.Bijective (diffusedWord a b) := by
  rw [← diffusedWord_twice] at h
  exact ⟨h.injective.of_comp, h.surjective.of_comp⟩

/-- After six doublings the amounts are multiples of the word's length, and the map is the identity. -/
theorem diffusedWord_bijective (a b : Nat) : Function.Bijective (diffusedWord a b) := by
  iterate 6 apply diffusedWord_bijective_of_twice
  rw [diffusedWord_eq_id (by omega) (by omega)]
  exact Function.bijective_id

theorem amounts_lt : ∀ r ∈ [params.rot0, params.rot1, params.rot2, params.rot3, params.rot4],
    r.first < 64 ∧ r.second < 64 := by decide

theorem diffuseWord_bijective {r : Rotations} (amounts : r.first < 64 ∧ r.second < 64) :
    Function.Bijective (diffuseWord r) := by
  rw [diffuseWord_eq_diffusedWord amounts]
  exact diffusedWord_bijective _ _

theorem getLsbD_diffuseWord {r : Rotations} (amounts : r.first < 64 ∧ r.second < 64) (x : Word) {j : Nat}
    (hj : j < 64) : (diffuseWord r x).getLsbD j = Claims.diffusedBit x r.first r.second j := by
  rw [diffuseWord_eq_diffusedWord amounts, getLsbD_diffusedWord _ _ _ hj]

/-- Settles O13: bit by bit for the rotations; rotating is linear; and doubling the amounts six times turns a word map
into the identity (`diffusedWord_bijective`). -/
theorem diffusionIsTheTenRotations : Obligations.DiffusionIsTheTenRotations := by
  refine ⟨fun S j hj => ⟨?_, ?_, ?_, ?_, ?_⟩, fun r hr => ?_⟩
  iterate 5 exact getLsbD_diffuseWord (by decide) _ hj
  rw [diffuseWord_eq_diffusedWord (amounts_lt r hr)]
  exact ⟨diffusedWord_xor _ _, diffusedWord_bijective _ _⟩

theorem diffuse_injective : Function.Injective diffuse := fun S T h => by
  have word_injective {r : Rotations} {x y : Word} (amounts : r.first < 64 ∧ r.second < 64)
      (same : diffuseWord r x = diffuseWord r y) : x = y :=
    (diffuseWord_bijective amounts).injective same
  obtain ⟨same0, same1, same2, same3, same4⟩ := Sponge.mk.inj h
  cases S
  cases T
  rw [Sponge.mk.injEq]
  exact ⟨word_injective (by decide) same0, word_injective (by decide) same1, word_injective (by decide) same2,
    word_injective (by decide) same3, word_injective (by decide) same4⟩

/-! ### The rounds and the permutation (R98 to R100) -/

theorem round_injective (i : Nat) : Function.Injective (Machine.round i) :=
  diffuse_injective.comp (substitute_injective.comp (addConstant_involutive i).injective)

theorem rounds_injective (is : List Nat) : Function.Injective (rounds is) := by
  induction is with
  | nil => exact Function.injective_id
  | cons i is ih => exact ih.comp (round_injective i)

/-- Settles O14: each of the three steps of a round is one-to-one, and so are the rounds. -/
theorem permutationIsABijection : Obligations.PermutationIsABijection := fun n _ =>
  bijective_of_injective (rounds_injective (roundIndices n))

/-- R99: the indices are `12-n`, `12-n+1`, and so on, `n` of them. -/
theorem permute_eq_foldl (n : Nat) (S : Sponge) :
    permute n S = (List.range n).foldl (fun T k => Machine.round (12 - n + k) T) S := by
  rw [permute, roundIndices, rounds, List.range'_eq_map_range, List.foldl_map, na_eq]

@[simp] theorem permute_zero (S : Sponge) : permute 0 S = S := rfl

theorem permute_one (S : Sponge) : permute 1 S = Machine.round 11 S := rfl

/-- R100: a shorter permutation is the tail of the 12-round one. -/
theorem permute_twelve {n : Nat} (hn : n ≤ 12) (S : Sponge) :
    permute 12 S = permute n (rounds (List.range (12 - n)) S) := by
  have indices : roundIndices 12 = List.range (12 - n) ++ roundIndices n := by
    calc List.range' 0 12
      _ = List.range' 0 (12 - n + n) := by rw [Nat.sub_add_cancel hn]
      _ = List.range' 0 (12 - n) ++ List.range' (0 + (12 - n)) n := List.range'_append_1.symm
      _ = List.range (12 - n) ++ roundIndices n := by rw [List.range_eq_range', Nat.zero_add, roundIndices, na_eq]
  rw [permute, indices, rounds_append, permute]

/-- Two rounds have the constants `C_10` and `C_11`, one round twice has `C_11` twice: the zero state tells them
apart. -/
theorem permute_two_ne : permute 2 Sponge.zero ≠ permute 1 (permute 1 Sponge.zero) := by decide

/-- Settles O15: the fold of R99, the tail of the 12-round permutation, and the zero state for the last part. -/
theorem permuteFollowsTheSchedule : Obligations.PermuteFollowsTheSchedule :=
  ⟨fun n _ => permute_eq_foldl n, permute_zero, permute_one, fun _ hn => permute_twelve hn,
    Sponge.zero, permute_two_ne⟩

/-- Settles O16: the engine is run on the zero state. -/
theorem permuteGivesTheWorkedValues : Obligations.PermuteGivesTheWorkedValues := by
  unfold Obligations.PermuteGivesTheWorkedValues
  decide

/-! ### The fault of a command outside its phases, and of its field (R203) -/

theorem commandFault_of_illegal_phase {i : Instr} {s : State} (h : s.phase ∉ legalPhases i) :
    commandFault i s = some .badPhase := by
  rw [commandFault, if_pos (.inl h)]

/-- In a legal phase, with the call's conditions met and the key there, only the field can fault. -/
theorem commandFault_of_legal {i : Instr} {s : State} (legal : s.phase ∈ legalPhases i)
    (call : callConditions i s = true) (keyed : i.opc = 0x2 → s.keyed = true) :
    commandFault i s = fieldFault i s := by
  rw [commandFault, if_neg (by simp [legal, call]), if_neg (by simpa using keyed)]

theorem exec_in_illegal_phase {i : Instr} {s : State} (h : s.phase ≠ .fault) (illegal : s.phase ∉ legalPhases i) :
    exec i s = .next (Claims.faulted .badPhase s) :=
  exec_faults h (commandFault_of_illegal_phase illegal)

/-! ### Words beside a row (R73, R75) -/

/-- A word with the opcode of a row and a bit set outside `OPC` and the row's field decodes to nothing: `OPC` leaves
that row alone, and its mask keeps the bit. -/
theorem illegalBeside {opc field : CmdWord} (row : ∃ r ∈ opcodeRows, r.pattern = opc ∧ ~~~r.mask = field) :
    Claims.IllegalBeside opc field := by
  obtain ⟨r, hr, rfl, rfl⟩ := row
  intro cw din s same_opc other_bit not_fault
  cases decoded : decode ⟨cw, din⟩ with
  | error e => rw [step_present_illegal s decoded, State.illegalCommand, if_neg not_fault, raise_eq_faulted]
  | ok i =>
    obtain ⟨r', hr', accepts, -⟩ := (decode_eq_ok_iff _ _).mp decoded
    have same_row : r' = r :=
      List.inj_on_of_nodup_map patterns_nodup hr' hr ((pattern_of_accepts hr' accepts).trans same_opc)
    rw [same_row, accepts_iff] at accepts
    refine absurd ?_ other_bit
    calc cw &&& ~~~(0xF#32 ||| ~~~r.mask)
      _ = (cw &&& r.mask) &&& ~~~0xF#32 := by rw [BitVec.not_or, BitVec.not_not]; ac_rfl
      _ = (r.pattern &&& 0xF#32) &&& ~~~0xF#32 := by rw [accepts, (row_fixes_opc r hr).2]
      _ = 0#32 := by simp [BitVec.and_assoc]

/-- The word of a well-formed command is its opcode with the number of its field at the field's place. -/
theorem decode_opcode_or_field (i : Instr) (well_formed : i.wellFormed = true) (d : Block) :
    decode ⟨BitVec.ofNat 32 i.opc ||| BitVec.ofNat 32 ((usedField i).value <<< (usedField i).place), d⟩ =
      .ok (withOperand i d) :=
  decode_word_of i well_formed (by rw [encode_cw, fieldWord, BitVec.ofNat_or]) d

/-! ### Raw mode (R101 to R104) -/

/-- Settles O21: RAWEN is legal in the idle phases and has no other condition; its result is the state named. -/
theorem rawenEntersRawMode : Obligations.RawenEntersRawMode := by
  have legal_iff (s : State) : s.phase ∈ legalPhases .rawen ↔ Claims.Idle s := by simp [legalPhases]
  refine ⟨fun s idle => ?_, fun s busy not_fault => ?_, decode_word_of .rawen rfl rfl, illegalBeside (by decide)⟩
  · have legal := (legal_iff s).mpr idle
    exact exec_executes (fun h => fault_not_legal _ (h ▸ legal)) (commandFault_of_legal legal rfl nofun)
  · exact exec_in_illegal_phase not_fault (mt (legal_iff s).mp busy)

/-- In phase RAW a raw-mode command can fault by its field alone. -/
theorem commandFault_in_raw {i : Instr} {s : State} (raw_only : legalPhases i = [.raw]) (raw : s.phase = .raw) :
    commandFault i s = fieldFault i s := by
  have legal : s.phase ∈ legalPhases i := by simp [raw_only, raw]
  cases i with
  | ldsw | rdsw | perm => exact commandFault_of_legal legal rfl nofun
  | _ => simp [legalPhases] at raw_only

section RawMode

variable {i : Instr} {s : State} (raw_only : legalPhases i = [.raw])
include raw_only

theorem exec_in_raw_executes (raw : s.phase = .raw) (field : fieldFault i s = none) :
    exec i s = .next (resultOf i s) :=
  exec_executes (by simp [raw]) ((commandFault_in_raw raw_only raw).trans field)

theorem exec_in_raw_faults {x : Cause} (raw : s.phase = .raw) (field : fieldFault i s = some x) :
    exec i s = .next (Claims.faulted x s) :=
  exec_faults (by simp [raw]) ((commandFault_in_raw raw_only raw).trans field)

theorem exec_outside_raw (outside : s.phase ≠ .raw) (not_fault : s.phase ≠ .fault) :
    exec i s = .next (Claims.faulted .badPhase s) :=
  exec_in_illegal_phase not_fault (by simpa [raw_only] using outside)

end RawMode

/-- Settles O22: the index is the one field that can fault, and the word set is the one read back. -/
theorem ldswLoadsOneWord : Obligations.LdswLoadsOneWord := by
  refine ⟨fun i d s raw hi => ⟨?_, s.S.get_set_same i _ hi, fun j hj => s.S.get_set_other i j _ hj⟩,
    fun _ _ _ => exec_outside_raw rfl, fun _ _ _ raw hi => exec_in_raw_faults rfl raw (if_pos hi),
    fun i hi d => decode_opcode_or_field (.ldsw i d) (by simpa [Instr.wellFormed] using hi) d,
    illegalBeside (by decide)⟩
  rw [be64_take]
  exact exec_in_raw_executes rfl raw (if_neg (Nat.not_lt.mpr hi))

/-- Settles O23: the index is the one field that can fault, and the result is the word's eight bytes. -/
theorem rdswReadsOneWord : Obligations.RdswReadsOneWord :=
  ⟨fun _ _ raw hi => exec_in_raw_executes rfl raw (if_neg (Nat.not_lt.mpr hi)),
    fun _ _ => exec_outside_raw rfl, fun _ _ raw hi => exec_in_raw_faults rfl raw (if_pos hi),
    fun i hi d => decode_opcode_or_field (.rdsw i) (by simpa [Instr.wellFormed] using hi) d,
    illegalBeside (by decide)⟩

/-- Settles O24: the round count is the one field that can fault, and the result is the permuted state. -/
theorem permRunsTheRounds : Obligations.PermRunsTheRounds :=
  ⟨fun _ _ raw hn => exec_in_raw_executes rfl raw (if_neg (Nat.not_lt.mpr hn)),
    fun _ _ => exec_outside_raw rfl, fun _ _ raw hn => exec_in_raw_faults rfl raw (if_pos hn),
    fun n hn d => decode_opcode_or_field (.perm n) (by simpa [Instr.wellFormed] using hn) d,
    illegalBeside (by decide)⟩

/-! ### The rounds of a command and of a call (R105, R185) -/

/-- R161: the key's place in FINAL, variant by variant. -/
theorem xorKeyAfterRate_eq_beforeRounds (s : State) :
    xorKeyAfterRate s.var s.K s.S = Claims.beforeRounds .final s := by
  unfold Claims.beforeRounds
  cases s.var <;> rfl

/-- R105: what a command leaves in `S`, as its rounds between what it does before and after them. -/
theorem resultOf_S {i : Instr} {s : State} (executes : commandFault i s = none) :
    (resultOf i s).S = Claims.afterRounds i s (permute (roundsRun s.var i) (Claims.beforeRounds i s)) := by
  cases i with
  | init r d =>
    simp only [resultOf, initialSponge, word0, word1, Claims.beforeRounds, be64_take]
    rfl
  | decl n d =>
    obtain ⟨-, -, -, field⟩ := conditions_of_executes executes
    have in_block : n < rate s.var := by simpa [fieldFault] using field
    have received : (firstBytes d n).length = n := by simp [in_block.le.trans (rate_le s.var)]
    simp only [resultOf, overwritePadded, received, Claims.beforeRounds, List.append_assoc, List.singleton_append]
    rfl
  | final => exact congrArg (fun A => xorKeyLast s.K (permute na A)) (xorKeyAfterRate_eq_beforeRounds s)
  | ldsw n d => exact congrArg (s.S.set n) (be64_take d.toList).symm
  | keyld | ad | adl | enc | encl | dec | rdtag | verify | rawen | rdsw | perm => rfl

theorem totalRounds_nil (v : Variant) : totalRounds v [] = 0 := rfl

theorem totalRounds_append (v : Variant) (is js : List Instr) :
    totalRounds v (is ++ js) = totalRounds v is + totalRounds v js := by
  simp [totalRounds]

theorem totalRounds_cons (v : Variant) (i : Instr) (is : List Instr) :
    totalRounds v (i :: is) = roundsRun v i + totalRounds v is := by
  simp [totalRounds]

/-- A command of `n` rounds for each full block, and one command after them. -/
theorem totalRounds_blocks (v : Variant) (r : Nat) (m : List Byte) {f : List Byte → Instr} {n : Nat}
    (each : ∀ b, roundsRun v (f b) = n) (last : Instr) :
    totalRounds v ((fullBlocks r m).map f ++ [last]) = m.length / r * n + roundsRun v last := by
  simp [totalRounds, fullBlocks, Function.comp_def, each]

/-- The AD phase runs `NB` rounds a block, the padded one included (R130, R133). -/
theorem totalRounds_adCommands (v : Variant) (a : List Byte) :
    totalRounds v (adCommands v a) = if a = [] then 0 else (a.length / rate v + 1) * nb v := by
  unfold adCommands
  split
  · rfl
  · rw [totalRounds_blocks v (rate v) a (n := nb v) (fun _ => rfl), add_one_mul, roundsRun]

/-- The data phase runs `NB` rounds a full block and none for the final one (R149). -/
theorem totalRounds_encryptCommands (v : Variant) (p : List Byte) :
    totalRounds v (encryptCommands v p) = p.length / rate v * nb v := by
  rw [encryptCommands, totalRounds_blocks v (rate v) p (n := nb v) (fun _ => rfl), roundsRun, Nat.add_zero]

theorem totalRounds_decryptCommands (v : Variant) (c : List Byte) :
    totalRounds v (decryptCommands v c) = c.length / rate v * nb v := by
  rw [decryptCommands, totalRounds_blocks v (rate v) c (n := nb v) (fun _ => rfl), roundsRun, Nat.add_zero]

/-- R185: 24 rounds for INIT and FINAL, and those of the two phases. -/
theorem totalRounds_sealCall (v : Variant) (nonce : Block) (m a : List Byte) :
    totalRounds v (sealCall v nonce m a) =
      if a = [] then 24 + m.length / rate v * nb v
      else 24 + (a.length / rate v + 1 + m.length / rate v) * nb v := by
  simp only [sealCall, totalRounds_cons, totalRounds_append, totalRounds_adCommands, totalRounds_encryptCommands,
    totalRounds_nil, roundsRun]
  split <;> ring

/-- Opening runs the rounds of sealing. -/
theorem totalRounds_openCall (v : Variant) (nonce tag : Block) (m a : List Byte) :
    totalRounds v (openCall v nonce m tag a) = totalRounds v (sealCall v nonce m a) := by
  simp only [sealCall, openCall, totalRounds_cons, totalRounds_append, totalRounds_encryptCommands,
    totalRounds_decryptCommands]
  rfl

/-- No command of a call loads a key (R180). -/
theorem loadsKey_of_mem_call {v : Variant} {nonce tag : Block} {m a : List Byte} {i : Instr}
    (h : i ∈ sealCall v nonce m a ∨ i ∈ openCall v nonce m tag a) : Claims.loadsKey i = false := by
  cases i with
  | keyld w d => simp [sealCall, openCall, adCommands, encryptCommands, decryptCommands] at h
  | _ => rfl

/-- A command that loads no key and does not fault keeps `VAR` (R30). -/
theorem exec_keeps_var {i : Instr} {s t : State} (h : Claims.loadsKey i = false) (hexec : exec i s = .next t)
    (not_fault : t.phase ≠ .fault) : t.var = s.var := by
  obtain ⟨-, rfl⟩ | ⟨-, x, -, rfl⟩ | ⟨-, -, rfl⟩ := exec_outcomes hexec
  · rfl
  · exact absurd rfl not_fault
  · exact (resultOf_key s h).2.2

/-- Settles O57: a command's rounds stand in its result (`resultOf_S`), the sums are those of the phases
(`totalRounds_sealCall`), and only KEYLD, which no call holds, writes `VAR`. -/
theorem callRunsTheCountedRounds : Obligations.CallRunsTheCountedRounds :=
  ⟨fun _ _ not_fault executes => ⟨_, exec_executes not_fault executes, resultOf_S executes⟩,
    fun v nonce tag m a => ⟨totalRounds_sealCall v nonce m a, totalRounds_openCall v nonce tag m a⟩,
    fun _ _ _ _ _ _ _ _ in_call => exec_keeps_var (loadsKey_of_mem_call in_call)⟩

end Sys2Proof.Proofs

/-! PROOF. The statements of 41_key_init.md: KEYLD (R120) and INIT (R121, R122), and that the state of a call depends
neither on the direction nor, for INIT, on the past (R122, R123). -/

namespace Sys2Proof.Proofs

open Sys2Proof Sys2Proof.Machine

/-! ### The commands of the idle phases (R36) -/

section IdleCommands

variable {i : Instr} {s : State} (idle_only : legalPhases i = idlePhases)
include idle_only

theorem legal_iff_idle : s.phase ∈ legalPhases i ↔ Claims.Idle s := by simp [idle_only, idlePhases]

theorem exec_outside_idle (busy : ¬ Claims.Idle s) (not_fault : s.phase ≠ .fault) :
    exec i s = .next (Claims.faulted .badPhase s) :=
  exec_in_illegal_phase not_fault (mt (legal_iff_idle idle_only).mp busy)

end IdleCommands

theorem not_fault_of_idle {s : State} (idle : Claims.Idle s) : s.phase ≠ .fault := by
  intro fault
  simp [Claims.Idle, fault] at idle

/-! ### KEYLD (R120) -/

theorem exec_keyld_executes (v : Variant) (d : Block) {s : State} (idle : Claims.Idle s) :
    exec (.keyld v d) s = .next (resultOf (.keyld v d) s) :=
  exec_executes (not_fault_of_idle idle) (commandFault_of_legal ((legal_iff_idle rfl).mpr idle) rfl nofun)

/-- Settles O25: KEYLD is legal in the idle phases and has no other condition; its result is the state named, with the
key read from the two halves of the operand (`keyOf_eq`). -/
theorem keyldLoadsKeyAndVariant : Obligations.KeyldLoadsKeyAndVariant := by
  refine ⟨fun v d s idle => ?_, fun _ _ _ => exec_outside_idle rfl, decode_word_of (.keyld .v0 Claims.noBytes) rfl rfl,
    decode_word_of (.keyld .v1 Claims.noBytes) rfl rfl, illegalBeside (by decide)⟩
  rw [← keyOf_eq]
  exact exec_keyld_executes v d idle

/-! ### INIT (R121, R122) -/

/-- R122: in an idle phase the one thing INIT can lack is the key. -/
theorem commandFault_init {r : Dir} {d : Block} {s : State} (idle : Claims.Idle s) :
    commandFault (.init r d) s = if s.keyed = true then none else some .noKey := by
  have legal : s.phase ∈ legalPhases (.init r d) := (legal_iff_idle rfl).mpr idle
  cases keyed : s.keyed with
  | true => exact commandFault_of_legal legal rfl fun _ => keyed
  | false =>
    rw [commandFault, if_neg (by simp [legal]), if_pos ⟨rfl, keyed⟩]
    rfl

theorem exec_init_executes (r : Dir) (d : Block) {s : State} (idle : Claims.Idle s) (keyed : s.keyed = true) :
    exec (.init r d) s = .next (resultOf (.init r d) s) :=
  exec_executes (not_fault_of_idle idle) ((commandFault_init idle).trans (if_pos keyed))

/-- R121: the start state in the bytes of the nonce. -/
theorem initialSponge_eq (v : Variant) (k : KeyReg) (nonce : Block) :
    initialSponge v k nonce = ⟨iv v, k.k0, k.k1, be64 (nonce.toList.take 8), be64 (nonce.toList.drop 8)⟩ := by
  rw [be64_take]
  rfl

/-- Settles O26: INIT is legal in the idle phases and needs a key (`commandFault_init`); its result is the state named,
with the nonce read from the two halves of the operand (`initialSponge_eq`). -/
theorem initBeginsACall : Obligations.InitBeginsACall := by
  refine ⟨fun r d s idle keyed => ?_, fun _ _ _ => exec_outside_idle rfl, fun r d s idle unkeyed => ?_,
    decode_word_of (.init .sealing Claims.noBytes) rfl rfl, decode_word_of (.init .opening Claims.noBytes) rfl rfl,
    illegalBeside (by decide)⟩
  · rw [← initialSponge_eq]
    exact exec_init_executes r d idle keyed
  · exact exec_faults (not_fault_of_idle idle) ((commandFault_init idle).trans (if_neg (by simp [unkeyed])))

/-! ### Neither the direction nor the past (R122, R123) -/

/-- R122: INIT reads neither `S` nor `DIR`, and its direction is latched and nothing more. -/
theorem resultOf_init_other (s : State) (S' : Sponge) (r r' r₀ : Dir) (d : Block) :
    resultOf (.init r' d) { s with S := S', dir := r₀ } = { resultOf (.init r d) s with dir := r' } := rfl

/-- A command that left no fault executed, and left its result. -/
theorem executed_of_next {i : Instr} {s t : State} (hexec : exec i s = .next t) (no_fault : t.phase ≠ .fault) :
    s.phase ≠ .fault ∧ commandFault i s = none ∧ t = resultOf i s := by
  obtain ⟨fault, rfl⟩ | ⟨-, x, -, rfl⟩ | executed := exec_outcomes hexec
  · exact absurd fault no_fault
  · exact absurd rfl no_fault
  · exact executed

/-- R123: a command whose fault and result do not depend on `DIR` acts the same in the other direction. -/
theorem exec_other_dir {i : Instr} {s t : State} {r : Dir}
    (same_fault : commandFault i { s with dir := r } = commandFault i s)
    (same_result : resultOf i { s with dir := r } = { resultOf i s with dir := r })
    (hexec : exec i s = .next t) (no_fault : t.phase ≠ .fault) :
    exec i { s with dir := r } = .next { t with dir := r } := by
  obtain ⟨not_fault, executes, rfl⟩ := executed_of_next hexec no_fault
  rw [exec_executes (s := { s with dir := r }) not_fault (same_fault.trans executes), same_result]

/-- Settles O51: both runs of INIT execute, and their results differ in the direction alone (`resultOf_init_other`); AD
and ADL neither read nor write `DIR` (`exec_other_dir`). -/
theorem callStateIgnoresDirectionAndPast : Obligations.CallStateIgnoresDirectionAndPast := by
  refine ⟨fun s S' r r' r₀ d t t' idle keyed run other_run => ?_,
    fun s r n d t _ => ⟨exec_other_dir rfl rfl, exec_other_dir rfl rfl⟩⟩
  rw [exec_init_executes r d idle keyed] at run
  rw [exec_init_executes r' d (s := { s with S := S', dir := r₀ }) idle keyed, resultOf_init_other s S' r] at other_run
  cases run
  cases other_run
  exact ⟨rfl, rfl⟩

end Sys2Proof.Proofs

/-! PROOF. The statements of 42_assoc_data.md: AD (R131) and ADL (R133, R134). -/

namespace Sys2Proof.Proofs

open Sys2Proof Sys2Proof.Machine

/-! ### The commands of the AD phases (R36) -/

section AdCommands

variable {i : Instr} {s : State} (ad_only : legalPhases i = [.initialized, .absorbAd])
include ad_only

theorem legal_iff_adPhase : s.phase ∈ legalPhases i ↔ Claims.AdPhase s := by simp [ad_only]

theorem exec_outside_adPhase (outside : ¬ Claims.AdPhase s) (not_fault : s.phase ≠ .fault) :
    exec i s = .next (Claims.faulted .badPhase s) :=
  exec_in_illegal_phase not_fault (mt (legal_iff_adPhase ad_only).mp outside)

theorem not_fault_in_adPhase (ad_phase : Claims.AdPhase s) : s.phase ≠ .fault := fun fault =>
  fault_not_legal i (fault ▸ (legal_iff_adPhase ad_only).mpr ad_phase)

/-- In an AD phase an AD command can fault by its field alone: it has no condition on the call and none on the key. -/
theorem commandFault_in_adPhase (ad_phase : Claims.AdPhase s) : commandFault i s = fieldFault i s := by
  have legal := (legal_iff_adPhase ad_only).mpr ad_phase
  cases i with
  | ad | adl => exact commandFault_of_legal legal rfl nofun
  | _ => simp [legalPhases] at ad_only

theorem exec_in_adPhase_executes (ad_phase : Claims.AdPhase s) (field : fieldFault i s = none) :
    exec i s = .next (resultOf i s) :=
  exec_executes (not_fault_in_adPhase ad_only ad_phase) ((commandFault_in_adPhase ad_only ad_phase).trans field)

theorem exec_in_adPhase_faults {x : Cause} (ad_phase : Claims.AdPhase s) (field : fieldFault i s = some x) :
    exec i s = .next (Claims.faulted x s) :=
  exec_faults (not_fault_in_adPhase ad_only ad_phase) ((commandFault_in_adPhase ad_only ad_phase).trans field)

end AdCommands

/-! ### AD (R131) -/

/-- Settles O27: AD has no field that can fault, and its result is the state named. -/
theorem adAbsorbsAFullBlock : Obligations.AdAbsorbsAFullBlock :=
  ⟨fun _ _ ad_phase => exec_in_adPhase_executes rfl ad_phase rfl, fun _ _ => exec_outside_adPhase rfl,
    decode_word_of (.ad Claims.noBytes) rfl rfl, illegalBeside (by decide)⟩

/-! ### ADL (R133, R134) -/

/-- R133: a length below the rate, and not 0 straight after INIT, is in range. -/
theorem fieldFault_adl_of_in_range {n : Nat} {d : Block} {s : State} (in_block : n < rate s.var)
    (not_empty : s.phase = .initialized → 1 ≤ n) : fieldFault (.adl n d) s = none := by
  refine if_neg ?_
  rintro (too_long | ⟨empty, after_init⟩)
  · exact absurd too_long (Nat.not_le.mpr in_block)
  · exact absurd empty (Nat.one_le_iff_ne_zero.mp (not_empty after_init))

/-- Settles O28: the length is the one field that can fault, and the result is the permuted state with the domain bit
applied (`domainSeparate`). -/
theorem adlClosesTheAdPhase : Obligations.AdlClosesTheAdPhase :=
  ⟨fun _ _ _ ad_phase in_block not_empty =>
      exec_in_adPhase_executes rfl ad_phase (fieldFault_adl_of_in_range in_block not_empty),
    fun _ _ _ => exec_outside_adPhase rfl,
    fun _ _ _ ad_phase out_of_range => exec_in_adPhase_faults rfl ad_phase (if_pos out_of_range),
    fun n hn d => decode_opcode_or_field (.adl n d) (by simpa [Instr.wellFormed] using hn) d,
    illegalBeside (by decide)⟩

end Sys2Proof.Proofs

/-! PROOF. The statements of 43_data.md: ENC (R141), ENCL (R143), DEC (R145) and DECL (R147), with the entry step of R140,
and that decryption inverts encryption (R150). -/

namespace Sys2Proof.Proofs

open Sys2Proof Sys2Proof.Machine

/-! ### The commands of the data phases (R36, R140) -/

section DataCommands

variable {i : Instr} {s : State} {r : Dir} (data_only : legalPhases i = dataPhases)
include data_only

theorem legal_iff_dataPhase : s.phase ∈ legalPhases i ↔ Claims.DataPhase s := by simp [data_only, dataPhases]

theorem not_fault_in_dataPhase (data_phase : Claims.DataPhase s) : s.phase ≠ .fault := fun fault =>
  fault_not_legal i (fault ▸ (legal_iff_dataPhase data_only).mpr data_phase)

theorem opc_ne_init_of_data_only : i.opc ≠ 0x2 := by
  cases i with
  | init => simp [legalPhases, dataPhases] at data_only
  | _ => simp [Instr.opc]

/-- R37: a data command writes `S`, `DOUT`, `DOUTLEN` and `PHASE` only. -/
theorem resultOf_of_data_only (s : State) :
    resultOf i s =
      { s with
        S := (resultOf i s).S,
        dout := blockOf (bytesOut i s), doutLen := (bytesOut i s).length, phase := phaseAfter i } := by
  cases i with
  | enc | encl | dec | decl => simp [resultOf, State.putDout, bytesOut, phaseAfter]
  | _ => simp [legalPhases, dataPhases] at data_only

/-- Nothing follows the rounds of a data command (R141 to R147). -/
theorem afterRounds_of_data_only (s : State) (T : Sponge) : Claims.afterRounds i s T = T := by
  cases i with
  | init | adl | final => simp [legalPhases, dataPhases] at data_only
  | _ => rfl

variable (call_dir : callConditions i s = (s.dir == r))
include call_dir

/-- In a data phase of a call in its direction a data command can fault by its field alone. -/
theorem commandFault_in_dataPhase (data_phase : Claims.DataPhase s) (dir : s.dir = r) :
    commandFault i s = fieldFault i s :=
  commandFault_of_legal ((legal_iff_dataPhase data_only).mpr data_phase) (by simp [call_dir, dir])
    fun init => absurd init (opc_ne_init_of_data_only data_only)

theorem exec_in_dataPhase_faults {x : Cause} (data_phase : Claims.DataPhase s) (dir : s.dir = r)
    (field : fieldFault i s = some x) : exec i s = .next (Claims.faulted x s) :=
  exec_faults (not_fault_in_dataPhase data_only data_phase)
    ((commandFault_in_dataPhase data_only call_dir data_phase dir).trans field)

/-- A data command that executes, register by register: the rounds of R105, the bytes it puts out, the phase of R36. -/
theorem exec_in_dataPhase_executes (data_phase : Claims.DataPhase s) (dir : s.dir = r)
    (field : fieldFault i s = none) :
    exec i s = .next
      { s with
        S := permute (roundsRun s.var i) (Claims.beforeRounds i s),
        dout := blockOf (bytesOut i s), doutLen := bytesProduced s.var i, phase := phaseAfter i } := by
  have executes := (commandFault_in_dataPhase data_only call_dir data_phase dir).trans field
  rw [exec_executes (not_fault_in_dataPhase data_only data_phase) executes, resultOf_of_data_only data_only s,
    resultOf_S executes, bytesOut_length executes, afterRounds_of_data_only data_only]

/-- Outside the data phases, and in a call of the other direction, a data command is refused as out of phase (R205). -/
theorem exec_outside_dataPhase (outside : ¬ (Claims.DataPhase s ∧ s.dir = r)) (not_fault : s.phase ≠ .fault) :
    exec i s = .next (Claims.faulted .badPhase s) := by
  refine exec_faults not_fault (if_pos ?_)
  rw [legal_iff_dataPhase data_only, call_dir, beq_eq_false_iff_ne]
  exact not_and_or.mp outside

end DataCommands

/-! ### ENC and ENCL (R141, R143) -/

/-- Settles O29: ENC has no field that can fault, and its result is the state named. -/
theorem encEncryptsAFullBlock : Obligations.EncEncryptsAFullBlock :=
  ⟨fun _ _ data_phase dir => exec_in_dataPhase_executes rfl rfl data_phase dir rfl,
    fun _ _ => exec_outside_dataPhase rfl rfl, decode_word_of (.enc Claims.noBytes) rfl rfl,
    illegalBeside (by decide)⟩

/-- Settles O30: the length is the one field that can fault, and the result is the state named. -/
theorem enclEncryptsTheFinalBlock : Obligations.EnclEncryptsTheFinalBlock :=
  ⟨fun _ _ _ data_phase dir in_block =>
      exec_in_dataPhase_executes rfl rfl data_phase dir (if_neg (Nat.not_le.mpr in_block)),
    fun _ _ _ => exec_outside_dataPhase rfl rfl,
    fun _ _ _ data_phase dir too_long => exec_in_dataPhase_faults rfl rfl data_phase dir (if_pos too_long),
    fun n hn d => decode_opcode_or_field (.encl n d) (by simpa [Instr.wellFormed] using hn) d,
    illegalBeside (by decide)⟩

/-! ### DEC and DECL (R145, R147) -/

/-- Settles O31: DEC has no field that can fault, and its result is the state named. -/
theorem decDecryptsAFullBlock : Obligations.DecDecryptsAFullBlock :=
  ⟨fun _ _ data_phase dir => exec_in_dataPhase_executes rfl rfl data_phase dir rfl,
    fun _ _ => exec_outside_dataPhase rfl rfl, decode_word_of (.dec Claims.noBytes) rfl rfl,
    illegalBeside (by decide)⟩

/-- Settles O32: the length is the one field that can fault, and the result is the state named. -/
theorem declDecryptsTheFinalBlock : Obligations.DeclDecryptsTheFinalBlock :=
  ⟨fun _ _ _ data_phase dir in_block =>
      exec_in_dataPhase_executes rfl rfl data_phase dir (if_neg (Nat.not_le.mpr in_block)),
    fun _ _ _ => exec_outside_dataPhase rfl rfl,
    fun _ _ _ data_phase dir too_long => exec_in_dataPhase_faults rfl rfl data_phase dir (if_pos too_long),
    fun n hn d => decode_opcode_or_field (.decl n d) (by simpa [Instr.wellFormed] using hn) d,
    illegalBeside (by decide)⟩

/-! ### Decryption inverts encryption (R150) -/

/-- XORing the same bytes in twice gives the string back. -/
theorem xorBytes_xorBytes_cancel {a b : List Byte} (h : b.length ≤ a.length) : xorBytes (xorBytes a b) a = b := by
  apply List.ext_getElem
  · simp [h]
  · intro k _ _
    simp [xorBytes, BitVec.xor_comm _ b[k]]

theorem xorBytes_zeros (b : List Byte) : xorBytes b (List.replicate b.length 0#8) = b := by
  apply List.ext_getElem <;> simp [xorBytes]

theorem xorBytes_take_left (a b : List Byte) : xorBytes (a.take b.length) b = xorBytes a b := by
  apply List.ext_getElem <;> simp [xorBytes, Nat.min_comm]

/-- R150 for the final block: XORing the padded plaintext in (R143) makes the rate portion that overwriting with the
ciphertext makes (R147). -/
theorem xorBytes_pad {v : Variant} {m old : List Byte} (hm : m.length < rate v) (hold : old.length = rate v) :
    xorBytes old (pad v m) = overwritePadded (xorBytes old m) old := by
  have in_old : m.length < old.length := hold ▸ hm
  have same_length : (old.take m.length).length = m.length := List.length_take_of_le in_old.le
  have zeros_length : rate v - m.length - 1 = (old.drop (m.length + 1)).length := by simp [hold]; omega
  have cipher_length : (xorBytes old m).length = m.length := by simp [in_old.le]
  calc xorBytes old (pad v m)
    _ = xorBytes (old.take m.length ++ old[m.length] :: old.drop (m.length + 1)) (pad v m) := by
      rw [← List.drop_eq_getElem_cons in_old, List.take_append_drop]
    _ = xorBytes (old.take m.length) m ++ (old[m.length] ^^^ 0x80#8) ::
          xorBytes (old.drop (m.length + 1)) (List.replicate (rate v - m.length - 1) 0#8) :=
      List.zipWith_append same_length
    _ = overwritePadded (xorBytes old m) old := by
      rw [xorBytes_take_left, zeros_length, xorBytes_zeros, overwritePadded, cipher_length,
        List.getD_eq_getElem _ _ in_old]

/-- The ciphertext of the first `n` bytes of a block: the rate portion after the entry step, XORed with them. -/
def ciphertext (s : State) (p : Block) (n : Nat) : List Byte :=
  xorBytes (rateBytes s.var s.dataEntry) (firstBytes p n)

section Ciphertext

variable (s : State) (p : Block) {n : Nat}

theorem firstBytes_length_of_le_rate {v : Variant} (in_block : n ≤ rate v) : (firstBytes p n).length = n := by
  simp [in_block.trans (rate_le v)]

theorem ciphertext_length (in_block : n ≤ rate s.var) : (ciphertext s p n).length = n := by
  rw [ciphertext, xorBytes_length, firstBytes_length_of_le_rate p in_block, rateBytes_length, Nat.min_eq_right in_block]

/-- The ciphertext in `DOUT`, presented as an operand, is received whole. -/
theorem firstBytes_ciphertext (in_block : n ≤ rate s.var) :
    firstBytes (blockOf (ciphertext s p n)) n = ciphertext s p n := by
  have length := ciphertext_length s p in_block
  simpa only [length] using firstBytes_blockOf (ciphertext s p n) (length.le.trans (in_block.trans (rate_le s.var)))

/-- What DEC and DECL compute from the received ciphertext (R145, R147) is the plaintext that was encrypted. -/
theorem ciphertext_decrypts (in_block : n ≤ rate s.var) :
    xorBytes (firstBytes (blockOf (ciphertext s p n)) n) (rateBytes s.var s.dataEntry) = firstBytes p n := by
  rw [firstBytes_ciphertext s p in_block]
  exact xorBytes_xorBytes_cancel (by rw [firstBytes_length_of_le_rate p in_block, rateBytes_length]; exact in_block)

/-- R150 for a full block: XORing the plaintext in is replacing the rate portion by the ciphertext. -/
theorem xorRate_firstBytes_eq_setRateBytes :
    xorRate s.var (firstBytes p (rate s.var)) s.dataEntry =
      setRateBytes s.var (ciphertext s p (rate s.var)) s.dataEntry :=
  xorRate_eq_setRateBytes _ _ _ (firstBytes_length_of_le_rate p le_rfl)

/-- R141: the ciphertext of a full block is what ENC puts out. -/
theorem bytesOut_enc : bytesOut (.enc p) s = ciphertext s p (rate s.var) := by
  rw [bytesOut, xorRate_firstBytes_eq_setRateBytes, rateBytes_setRateBytes _ _ _ (ciphertext_length s p le_rfl)]

theorem beforeRounds_dec_ciphertext :
    Claims.beforeRounds (.dec (blockOf (ciphertext s p (rate s.var)))) { s with dir := .opening } =
      Claims.beforeRounds (.enc p) s :=
  calc setRateBytes s.var (firstBytes (blockOf (ciphertext s p (rate s.var))) (rate s.var)) s.dataEntry
    _ = setRateBytes s.var (ciphertext s p (rate s.var)) s.dataEntry := by rw [firstBytes_ciphertext s p le_rfl]
    _ = xorRate s.var (firstBytes p (rate s.var)) s.dataEntry := (xorRate_firstBytes_eq_setRateBytes s p).symm

variable (in_block : n < rate s.var)
include in_block

/-- R147: DECL sets the rate portion to the received bytes, padded over the old ones. -/
theorem beforeRounds_decl :
    Claims.beforeRounds (.decl n p) s =
      setRateBytes s.var (overwritePadded (firstBytes p n) (rateBytes s.var s.dataEntry)) s.dataEntry := by
  rw [overwritePadded, firstBytes_length_of_le_rate p in_block.le, List.append_cons]
  rfl

/-- R150 for the final block: XORing the padded plaintext in is setting the rate portion to the ciphertext, padded over
the old bytes. -/
theorem xorRate_pad_eq_setRateBytes :
    xorRate s.var (pad s.var (firstBytes p n)) s.dataEntry =
      setRateBytes s.var (overwritePadded (ciphertext s p n) (rateBytes s.var s.dataEntry)) s.dataEntry := by
  have shorter : (firstBytes p n).length < rate s.var :=
    (firstBytes_length_of_le_rate p in_block.le).trans_lt in_block
  rw [xorRate_eq_setRateBytes _ _ _ (pad_length _ _ shorter), xorBytes_pad shorter (rateBytes_length _ _), ciphertext]

/-- R143: the ciphertext of a final block is what ENCL puts out. -/
theorem bytesOut_encl : bytesOut (.encl n p) s = ciphertext s p n := by
  have length := ciphertext_length s p in_block.le
  have full : (overwritePadded (ciphertext s p n) (rateBytes s.var s.dataEntry)).length = rate s.var := by
    rw [overwritePadded_length _ _ (by rw [length, rateBytes_length]; exact in_block), rateBytes_length]
  rw [bytesOut, xorRate_pad_eq_setRateBytes s p in_block, rateBytes_setRateBytes _ _ _ full]
  exact List.take_left' length

theorem beforeRounds_decl_ciphertext :
    Claims.beforeRounds (.decl n (blockOf (ciphertext s p n))) { s with dir := .opening } =
      Claims.beforeRounds (.encl n p) s := by
  rw [beforeRounds_decl { s with dir := .opening } _ in_block, firstBytes_ciphertext s p in_block.le]
  exact (xorRate_pad_eq_setRateBytes s p in_block).symm

end Ciphertext

/-- DEC of the ciphertext of a full block, in the other direction, leaves what ENC leaves, and the plaintext in
`DOUT`. -/
theorem exec_dec_ciphertext {s : State} (p : Block) (data_phase : Claims.DataPhase s) :
    exec (.dec (blockOf (ciphertext s p (rate s.var)))) { s with dir := .opening } = .next
      { s with
        S := permute (nb s.var) (Claims.beforeRounds (.enc p) s), dir := .opening,
        dout := blockOf (firstBytes p (rate s.var)), doutLen := rate s.var, phase := .procData } := by
  have plaintext : bytesOut (.dec (blockOf (ciphertext s p (rate s.var)))) { s with dir := .opening } =
      firstBytes p (rate s.var) := ciphertext_decrypts s p le_rfl
  rw [exec_in_dataPhase_executes (s := { s with dir := .opening }) rfl rfl data_phase rfl rfl,
    beforeRounds_dec_ciphertext, plaintext]
  rfl

/-- DECL of the ciphertext of a final block, in the other direction, leaves what ENCL leaves, and the plaintext in
`DOUT`. -/
theorem exec_decl_ciphertext {s : State} {n : Nat} (p : Block) (data_phase : Claims.DataPhase s)
    (in_block : n < rate s.var) :
    exec (.decl n (blockOf (ciphertext s p n))) { s with dir := .opening } = .next
      { s with
        S := Claims.beforeRounds (.encl n p) s, dir := .opening,
        dout := blockOf (firstBytes p n), doutLen := n, phase := .dataDone } := by
  have plaintext : bytesOut (.decl n (blockOf (ciphertext s p n))) { s with dir := .opening } = firstBytes p n :=
    ciphertext_decrypts s p in_block.le
  rw [exec_in_dataPhase_executes (i := .decl n (blockOf (ciphertext s p n))) (s := { s with dir := .opening }) rfl rfl
      data_phase rfl (if_neg (Nat.not_le.mpr in_block)), beforeRounds_decl_ciphertext s p in_block, plaintext]
  rfl

/-- Settles O50: what ENC and ENCL put out is the ciphertext (`bytesOut_enc`, `bytesOut_encl`), and DEC and DECL of it
leave the same state with the plaintext in `DOUT` (`exec_dec_ciphertext`, `exec_decl_ciphertext`). -/
theorem decryptionInvertsEncryption : Obligations.DecryptionInvertsEncryption := by
  refine ⟨fun s t p data_phase dir run => ?_, fun s t n p data_phase dir in_block run => ?_⟩
  · rw [exec_in_dataPhase_executes rfl rfl data_phase dir rfl, bytesOut_enc] at run
    cases run
    exact exec_dec_ciphertext p data_phase
  · rw [exec_in_dataPhase_executes (i := .encl n p) rfl rfl data_phase dir (if_neg (Nat.not_le.mpr in_block)),
      bytesOut_encl s p in_block] at run
    cases run
    exact exec_decl_ciphertext p data_phase in_block

end Sys2Proof.Proofs

/-! PROOF. The statements of 44_final_tag.md: FINAL (R160, R161), RDTAG (R163) and VERIFY (R166), and that the verdict
is equality of all sixteen bytes (R168). -/

namespace Sys2Proof.Proofs

open Sys2Proof Sys2Proof.Machine

/-! ### FINAL (R160, R161) -/

theorem exec_final_executes {s : State} (done : s.phase = .dataDone) :
    exec .final s = .next (resultOf .final s) :=
  exec_executes (by simp [done]) (commandFault_of_legal (by simp [legalPhases, done]) rfl nofun)

/-- Settles O33: FINAL is legal in DATA_DONE and has no other condition; the key's place before the rounds is the
variant's (`xorKeyAfterRate_eq_beforeRounds`). -/
theorem finalDerivesTheTag : Obligations.FinalDerivesTheTag := by
  refine ⟨fun s done => ?_, fun s outside not_fault => ?_, decode_word_of .final rfl rfl, illegalBeside (by decide)⟩
  · rw [exec_final_executes done, resultOf, xorKeyAfterRate_eq_beforeRounds]
    rfl
  · exact exec_in_illegal_phase not_fault (by simpa [legalPhases] using outside)

/-! ### The commands that use the tag (R36, R163, R166) -/

section TagCommands

variable {i : Instr} {s : State} {r : Dir} (finalized_only : legalPhases i = [.finalized])
  (call_conditions : callConditions i s = (s.tagValid && s.dir == r))
include finalized_only call_conditions

/-- A command that uses the tag executes in FINALIZED, with the tag there, in a call of its direction: it has no
field. -/
theorem exec_with_tag (finalized : s.phase = .finalized) (tag : s.tagValid = true) (dir : s.dir = r) :
    exec i s = .next (resultOf i s) := by
  have legal : s.phase ∈ legalPhases i := by simp [finalized_only, finalized]
  have call : callConditions i s = true := by simp [call_conditions, tag, dir]
  refine exec_executes (by simp [finalized]) ?_
  cases i with
  | rdtag | verify => exact commandFault_of_legal legal call nofun
  | _ => simp [legalPhases] at finalized_only

/-- Everywhere else it is refused as out of phase (R205). -/
theorem exec_without_tag (missing : ¬ (s.phase = .finalized ∧ s.tagValid = true ∧ s.dir = r))
    (not_fault : s.phase ≠ .fault) : exec i s = .next (Claims.faulted .badPhase s) := by
  refine exec_faults not_fault (if_pos ?_)
  rw [finalized_only, call_conditions]
  by_contra neither
  exact missing (by simpa using neither)

end TagCommands

/-! ### RDTAG (R163) -/

/-- R163: RDTAG writes `DOUT` and `DOUTLEN` alone and reads neither, so that it leaves what it left. -/
theorem exec_rdtag_again {s t : State} (run : exec .rdtag s = .next t) : exec .rdtag t = .next t := by
  obtain ⟨-, rfl⟩ | ⟨-, x, -, rfl⟩ | ⟨not_fault, executes, rfl⟩ := exec_outcomes run
  · exact run
  · rw [exec_eq_runCommand]
    exact State.runCommand_in_fault _ _ _ rfl
  · exact exec_executes (s := s.putDout (tagBytes s.S)) not_fault executes

/-- Settles O34: RDTAG's result is the state named, and reading again finds the same tag (`exec_rdtag_again`). -/
theorem rdtagReadsTheTag : Obligations.RdtagReadsTheTag :=
  ⟨fun _ => exec_with_tag rfl rfl, fun _ => exec_without_tag rfl rfl, fun _ _ => exec_rdtag_again,
    decode_word_of .rdtag rfl rfl, illegalBeside (by decide)⟩

/-! ### The comparison (R166) -/

/-- ORing bytes together gives zero exactly when all of them are zero. -/
theorem foldl_or_eq_zero_iff (l : List Byte) (x : Byte) :
    l.foldl (· ||| ·) x = 0#8 ↔ x = 0#8 ∧ ∀ y ∈ l, y = 0#8 := by
  induction l generalizing x with
  | nil => simp
  | cons y l ih => simp [ih, and_assoc]

/-- The difference of two tags is zero exactly when they are equal. -/
theorem tagDiff_eq_zero_iff {a b : List Byte} (h : a.length = b.length) : tagDiff a b = 0#8 ↔ a = b := by
  calc tagDiff a b = 0#8
    _ ↔ ∀ y ∈ xorBytes a b, y = 0#8 := by simp [tagDiff, foldl_or_eq_zero_iff]
    _ ↔ List.Forall₂ (fun x y => x ^^^ y = 0#8) a b := by
      rw [← List.forall_iff_forall_mem, xorBytes, List.forall_zipWith h]
    _ ↔ a = b := by simp

theorem verdictOf_eq {a b : List Byte} (h : a.length = b.length) : verdictOf a b = if a = b then .pass else .fail := by
  simp only [verdictOf, tagDiff_eq_zero_iff h]

/-! ### VERIFY (R166) -/

theorem exec_verify {s : State} (d : Block) (finalized : s.phase = .finalized) (tag : s.tagValid = true)
    (dir : s.dir = .opening) :
    exec (.verify d) s = .next
      { s.clearDout with
        verdict := if tagBytes s.S = d.toList then .pass else .fail, tagValid := false, S := Sponge.zero } := by
  rw [exec_with_tag rfl rfl finalized tag dir, resultOf, verdictOf_eq (by simp)]

/-- Settles O35: VERIFY's result is the state named, its comparison being equality (`verdictOf_eq`). -/
theorem verifyComparesAndClears : Obligations.VerifyComparesAndClears :=
  ⟨fun d _ => exec_verify d, fun _ _ => exec_without_tag rfl rfl, decode_word_of (.verify Claims.noBytes) rfl rfl,
    illegalBeside (by decide)⟩

/-! ### The verdict (R168) -/

theorem eq_toList_iff {b : List Byte} {d : Block} (h : b.length = 16) :
    b = d.toList ↔ ∀ (k : Nat) (hk : k < 16), b[k]? = some d[k] := by
  rw [List.ext_get_iff]
  simp +contextual [h]

/-- Settles O49: the verdict is equality of the two strings (`exec_verify`), which is equality byte by byte; everything
else VERIFY leaves is the same for all tags. -/
theorem verdictIsEqualityOfAllBytes : Obligations.VerdictIsEqualityOfAllBytes := by
  intro s S' d d' t t' finalized tag dir run run'
  rw [exec_verify d finalized tag dir] at run
  rw [exec_verify (s := { s with S := S' }) d' finalized tag dir] at run'
  cases run
  cases run'
  have same_bytes := eq_toList_iff (d := d) (tagBytes_length s.S)
  refine ⟨?pass, ?fail, rfl, rfl⟩
  case pass => simp [same_bytes]
  case fail => simp only [ne_eq, ← not_forall, ← same_bytes, ite_eq_right_iff, reduceCtorEq, imp_false]

end Sys2Proof.Proofs

/-! PROOF. The runs of a seal call and of the open call of its ciphertext (45_sequences.md R182 to R187): the blocks of a
string, the state of a core in a call, the phases of a call one after the other, and what `Open` answers for a sealed
ciphertext and any sixteen bytes as its tag. -/

namespace Sys2Proof.Proofs

open Sys2Proof Sys2Proof.Machine

/-! ### The blocks of a string (R182) -/

/-- A string is a short block, or a full block before a string. -/
theorem block_induction {r : Nat} (r_pos : 0 < r) {motive : List Byte → Prop}
    (short : ∀ m, m.length < r → motive m) (full : ∀ b m, b.length = r → motive m → motive (b ++ m))
    (m : List Byte) : motive m :=
  if h : m.length < r then short m h
  else by
    rw [← List.take_append_drop r m]
    exact full _ _ (by simp; omega) (block_induction r_pos short full (m.drop r))
termination_by m.length
decreasing_by simp; omega

/-- One command for each full block of a string, and one for the final block. -/
def blockCommands (full : Block → Instr) (last : Nat → Block → Instr) (r : Nat) (m : List Byte) : List Instr :=
  (fullBlocks r m).map (fun b => full (blockOf b)) ++ [last (lastBlock r m).length (blockOf (lastBlock r m))]

theorem adCommands_eq (v : Variant) (a : List Byte) :
    adCommands v a = if a = [] then [] else blockCommands .ad .adl (rate v) a := rfl

theorem encryptCommands_eq (v : Variant) (p : List Byte) :
    encryptCommands v p = blockCommands .enc .encl (rate v) p := rfl

theorem decryptCommands_eq (v : Variant) (c : List Byte) :
    decryptCommands v c = blockCommands .dec .decl (rate v) c := rfl

section Blocks

variable (full : Block → Instr) (last : Nat → Block → Instr) {r : Nat} {b m : List Byte}

theorem blockCommands_of_short (short : m.length < r) : blockCommands full last r m = [last m.length (blockOf m)] := by
  simp [blockCommands, fullBlocks, lastBlock, Nat.div_eq_of_lt short]

theorem blockCommands_append (r_pos : 0 < r) (is_full : b.length = r) :
    blockCommands full last r (b ++ m) = full (blockOf b) :: blockCommands full last r m := by
  subst is_full
  have blocks : (b ++ m).length / b.length = m.length / b.length + 1 := by
    rw [List.length_append, Nat.add_div_left _ r_pos]
  have after_first (q : Nat) : (b ++ m).drop ((q + 1) * b.length) = m.drop (q * b.length) := by
    rw [Nat.succ_mul, Nat.add_comm, List.drop_append, List.drop_of_length_le (Nat.le_add_right _ _),
      Nat.add_sub_cancel_left, List.nil_append]
  simp only [blockCommands, fullBlocks, lastBlock, blocks, after_first, List.range_succ_eq_map]
  simp [Function.comp_def, after_first]

end Blocks

/-! ### A core in a call -/

/-- The core `s` in a call of direction `r`, with `S`, the phase and the bytes in `DOUT` given. The commands between INIT
and FINAL write no other register (10_state.md R37). -/
def callState (s : State) (r : Dir) (S : Sponge) (p : Phase) (out : List Byte) : State :=
  { s with dir := r, S := S, phase := p, dout := blockOf out, doutLen := out.length }

section CallState

variable {s t u : State} {r : Dir} {S : Sponge} {p : Phase} {out rest : List Byte} {i : Instr} {is : List Instr}

theorem doutBytes_callState (short : out.length ≤ 16) : (callState s r S p out).doutBytes = out :=
  firstBytes_blockOf out short

/-- Writing the registers of a call again forgets what they held. -/
theorem callState_overwrite {r' : Dir} {T : Sponge} {q : Phase} {c : List Byte} {n : Nat} (length : c.length = n) :
    { callState s r S p out with dir := r', S := T, dout := blockOf c, doutLen := n, phase := q } =
      callState s r' T q c := by
  rw [← length]
  rfl

theorem callState_clear {T : Sponge} {q : Phase} :
    { callState s r S p out with S := T, dout := Claims.noBytes, doutLen := 0, phase := q } = callState s r T q [] := by
  have no_bytes : Claims.noBytes = blockOf [] := blockOf_nil.symm
  rw [no_bytes]
  rfl

/-- The host takes the bytes in `DOUT` and goes on (R183). -/
theorem runAll_cons_callState (first : exec i t = .next (callState s r S p out)) (short : out.length ≤ 16)
    (others : runAll is (callState s r S p out) = .next (u, rest)) : runAll (i :: is) t = .next (u, out ++ rest) := by
  rw [runAll_cons first others, doutBytes_callState short]

theorem runAll_singleton_callState (run : exec i t = .next (callState s r S p out)) (short : out.length ≤ 16) :
    runAll [i] t = .next (callState s r S p out, out) := by
  rw [runAll_cons_callState run short (runAll_nil _), List.append_nil]

end CallState

/-! ### The AD phase (R130, R133) -/

section Phases

variable {s : State} {S : Sponge} {p : Phase}

theorem exec_ad_callState (d : Block) (ad_phase : p = .initialized ∨ p = .absorbAd) :
    ∃ T, ∀ r out, exec (.ad d) (callState s r S p out) = .next (callState s r T .absorbAd []) :=
  ⟨permute (nb s.var) (xorRate s.var (firstBytes d (rate s.var)) S), fun r out => by
    rw [← callState_clear (S := S) (p := p) (out := out)]
    exact adAbsorbsAFullBlock.1 d _ ad_phase⟩

theorem exec_adl_callState {n : Nat} (d : Block) (ad_phase : p = .initialized ∨ p = .absorbAd)
    (in_block : n < rate s.var) (not_empty : p = .initialized → 1 ≤ n) :
    ∃ T, ∀ r out, exec (.adl n d) (callState s r S p out) = .next (callState s r T .procData []) :=
  ⟨domainSeparate (permute (nb s.var) (xorRate s.var (pad s.var (firstBytes d n)) S)), fun r out => by
    rw [← callState_clear (S := S) (p := p) (out := out)]
    exact adlClosesTheAdPhase.1 n d _ ad_phase in_block not_empty⟩

theorem runAll_absorb (a : List Byte) (ad_phase : p = .initialized ∨ p = .absorbAd)
    (not_empty : p = .initialized → a ≠ []) :
    ∃ T, ∀ r out, runAll (blockCommands .ad .adl (rate s.var) a) (callState s r S p out) =
      .next (callState s r T .procData [], []) := by
  induction a using block_induction (rate_pos s.var) generalizing S p with
  | short a short =>
    have one_byte : p = .initialized → 1 ≤ a.length := fun init => List.length_pos_iff.mpr (not_empty init)
    obtain ⟨T, run⟩ := exec_adl_callState (S := S) (blockOf a) ad_phase short one_byte
    rw [blockCommands_of_short _ _ short]
    exact ⟨T, fun r out => runAll_singleton_callState (run r out) (Nat.zero_le _)⟩
  | full b a is_full ih =>
    obtain ⟨S', first⟩ := exec_ad_callState (s := s) (S := S) (blockOf b) ad_phase
    obtain ⟨T, others⟩ := ih (S := S') (.inr rfl) nofun
    rw [blockCommands_append _ _ (rate_pos s.var) is_full]
    exact ⟨T, fun r out => runAll_cons_callState (first r out) (Nat.zero_le _) (others r [])⟩

/-- The AD phase puts out no byte and does the same in a call of either direction (R123). -/
theorem runAll_adCommands (s : State) (S : Sponge) (a : List Byte) :
    ∃ T p, (p = .initialized ∨ p = .procData) ∧
      ∀ r, runAll (adCommands s.var a) (callState s r S .initialized []) = .next (callState s r T p [], []) := by
  rw [adCommands_eq]
  by_cases empty : a = []
  · exact ⟨S, .initialized, .inl rfl, fun r => by rw [if_pos empty, runAll_nil]⟩
  · obtain ⟨T, run⟩ := runAll_absorb (s := s) (S := S) a (.inl rfl) fun _ => empty
    exact ⟨T, .procData, .inr rfl, fun r => by rw [if_neg empty, run r []]⟩

/-! ### The data phase (R149, R150) -/

/-- What a command of the call makes of `S` and of its operand depends on neither the direction nor `DOUT`. -/
theorem beforeRounds_callState (i : Instr) (r : Dir) (out : List Byte) :
    Claims.beforeRounds i (callState s r S p out) = Claims.beforeRounds i (callState s .sealing S p []) := by
  cases i <;> rfl

theorem ciphertext_callState (b : Block) (n : Nat) (r : Dir) (out : List Byte) :
    ciphertext (callState s r S p out) b n = ciphertext (callState s .sealing S p []) b n := rfl

/-- A full block: ENC, and DEC of what ENC puts out in the open call of the same `S`, leave the same `S`. -/
theorem exec_enc_dec_callState (b : Block) (data_phase : p = .initialized ∨ p = .procData) :
    ∃ T c, c.length = rate s.var ∧ ∀ out,
      exec (.enc b) (callState s .sealing S p out) = .next (callState s .sealing T .procData c) ∧
      exec (.dec (blockOf c)) (callState s .opening S p out) =
        .next (callState s .opening T .procData (firstBytes b (rate s.var))) := by
  have length := ciphertext_length (callState s .sealing S p []) b le_rfl
  refine ⟨permute (nb s.var) (Claims.beforeRounds (.enc b) (callState s .sealing S p [])), _, length,
    fun out => ⟨?_, ?_⟩⟩
  · have run := exec_in_dataPhase_executes (i := .enc b) (s := callState s .sealing S p out) rfl rfl data_phase rfl rfl
    rw [bytesOut_enc, beforeRounds_callState, ciphertext_callState] at run
    exact run.trans (congrArg _ (callState_overwrite length))
  · have run := exec_dec_ciphertext (s := callState s .sealing S p out) b data_phase
    rw [ciphertext_callState, beforeRounds_callState] at run
    exact run.trans (congrArg _ (callState_overwrite (firstBytes_length_of_le_rate b le_rfl)))

/-- The final block: ENCL and DECL in the same way. -/
theorem exec_encl_decl_callState {n : Nat} (b : Block) (data_phase : p = .initialized ∨ p = .procData)
    (in_block : n < rate s.var) :
    ∃ T c, c.length = n ∧ ∀ out,
      exec (.encl n b) (callState s .sealing S p out) = .next (callState s .sealing T .dataDone c) ∧
      exec (.decl n (blockOf c)) (callState s .opening S p out) =
        .next (callState s .opening T .dataDone (firstBytes b n)) := by
  have length := ciphertext_length (callState s .sealing S p []) b in_block.le
  refine ⟨Claims.beforeRounds (.encl n b) (callState s .sealing S p []), _, length, fun out => ⟨?_, ?_⟩⟩
  · have run := exec_in_dataPhase_executes (i := .encl n b) (s := callState s .sealing S p out) rfl rfl data_phase rfl
      (if_neg (Nat.not_le.mpr in_block))
    rw [bytesOut_encl (callState s .sealing S p out) b in_block, beforeRounds_callState, ciphertext_callState] at run
    exact run.trans (congrArg _ (callState_overwrite length))
  · have run := exec_decl_ciphertext (s := callState s .sealing S p out) b data_phase in_block
    rw [ciphertext_callState, beforeRounds_callState] at run
    exact run.trans (congrArg _ (callState_overwrite (firstBytes_length_of_le_rate b in_block.le)))

/-- The data phase of a seal call and of the open call of its ciphertext, begun with the same `S`: they end with the same
`S`, and the open call puts out the plaintext. -/
theorem runAll_dataPhase (m : List Byte) (data_phase : p = .initialized ∨ p = .procData) :
    ∃ T c last last', c.length = m.length ∧ ∀ out,
      runAll (encryptCommands s.var m) (callState s .sealing S p out) =
        .next (callState s .sealing T .dataDone last, c) ∧
      runAll (decryptCommands s.var c) (callState s .opening S p out) =
        .next (callState s .opening T .dataDone last', m) := by
  simp only [encryptCommands_eq, decryptCommands_eq]
  have rate_le := rate_le s.var
  induction m using block_induction (rate_pos s.var) generalizing S p with
  | short m short =>
    obtain ⟨T, c, length, run⟩ := exec_encl_decl_callState (S := S) (blockOf m) data_phase short
    have m_short : m.length ≤ 16 := short.le.trans rate_le
    rw [firstBytes_blockOf m m_short] at run
    refine ⟨T, c, c, m, length, fun out => ⟨?_, ?_⟩⟩
    · rw [blockCommands_of_short _ _ short]
      exact runAll_singleton_callState (run out).1 (length.trans_le m_short)
    · rw [blockCommands_of_short _ _ (length.trans_lt short), length]
      exact runAll_singleton_callState (run out).2 m_short
  | full b m is_full ih =>
    obtain ⟨S', c₀, length₀, first⟩ := exec_enc_dec_callState (s := s) (S := S) (blockOf b) data_phase
    rw [← is_full, firstBytes_blockOf b (is_full.trans_le rate_le)] at first
    obtain ⟨T, c, last, last', length, others⟩ := ih (S := S') (.inr rfl)
    refine ⟨T, c₀ ++ c, last, last', by simp [length, length₀, is_full], fun out => ⟨?_, ?_⟩⟩
    · rw [blockCommands_append _ _ (rate_pos s.var) is_full]
      exact runAll_cons_callState (first out).1 (length₀.trans_le rate_le) (others c₀).1
    · rw [blockCommands_append _ _ (rate_pos s.var) length₀]
      exact runAll_cons_callState (first out).2 (is_full.trans_le rate_le) (others b).2

/-! ### The end of a call (R160 to R166) -/

theorem exec_final_callState : ∃ T, ∀ r out,
    exec .final (callState s r S .dataDone out) = .next (callState { s with tagValid := true } r T .finalized []) :=
  ⟨xorKeyLast s.K (permute na (xorKeyAfterRate s.var s.K S)), fun r out => by
    rw [← callState_clear (s := { s with tagValid := true }) (S := S) (p := .dataDone) (out := out)]
    exact exec_final_executes rfl⟩

theorem exec_rdtag_callState (tag : s.tagValid = true) (out : List Byte) :
    exec .rdtag (callState s .sealing S .finalized out) = .next (callState s .sealing S .finalized (tagBytes S)) :=
  exec_with_tag rfl rfl rfl tag rfl

theorem exec_verify_callState (d : Block) (tag : s.tagValid = true) (out : List Byte) :
    exec (.verify d) (callState s .opening S .finalized out) = .next
      (callState { s with tagValid := false, verdict := if tagBytes S = d.toList then .pass else .fail } .opening
        Sponge.zero .finalized []) := by
  rw [exec_verify (s := callState s .opening S .finalized out) d rfl tag rfl,
    ← callState_clear (S := S) (p := .finalized) (out := out)]
  rfl

end Phases

/-! ### A seal call and the open call of its ciphertext (R183, R184, R186) -/

theorem exec_init_callState (r : Dir) (nonce : Block) {s : State} (idle : Claims.Idle s) (keyed : s.keyed = true) :
    exec (.init r nonce) s = .next
      (callState { s with tagValid := false, verdict := .none } r
        (xorKeyLast s.K (permute na (initialSponge s.var s.K nonce))) .initialized []) := by
  rw [exec_init_executes r nonce idle keyed, callState, blockOf_nil]
  rfl

/-- A call from its INIT to its FINAL, with the commands of its data phase given. -/
def callToFinal (v : Variant) (r : Dir) (nonce : Block) (a : List Byte) (data : List Instr) : List Instr :=
  .init r nonce :: (adCommands v a ++ data ++ [.final])

theorem sealCall_eq (v : Variant) (nonce : Block) (p a : List Byte) :
    sealCall v nonce p a = callToFinal v .sealing nonce a (encryptCommands v p) ++ [.rdtag] := by
  simp [sealCall, callToFinal]

theorem openCall_eq (v : Variant) (nonce : Block) (c : List Byte) (tag : Block) (a : List Byte) :
    openCall v nonce c tag a = callToFinal v .opening nonce a (decryptCommands v c) ++ [.verify tag] := by
  simp [openCall, callToFinal]

section Calls

variable {s : State} (idle : Claims.Idle s) (keyed : s.keyed = true) (nonce : Block) (p a : List Byte)
include idle keyed

/-- R186: the seal call and the open call of its ciphertext arrive at the same `S`, and with it at the same tag. -/
theorem runAll_callToFinal :
    ∃ T c, c.length = p.length ∧
      runAll (callToFinal s.var .sealing nonce a (encryptCommands s.var p)) s =
        .next (callState { s with tagValid := true, verdict := .none } .sealing T .finalized [], c) ∧
      runAll (callToFinal s.var .opening nonce a (decryptCommands s.var c)) s =
        .next (callState { s with tagValid := true, verdict := .none } .opening T .finalized [], p) := by
  have init (r : Dir) := exec_init_callState r nonce idle keyed
  obtain ⟨S, q, data_phase, ad⟩ := runAll_adCommands { s with tagValid := false, verdict := .none }
    (xorKeyLast s.K (permute na (initialSponge s.var s.K nonce))) a
  obtain ⟨S', c, last, last', length, data⟩ :=
    runAll_dataPhase (s := { s with tagValid := false, verdict := .none }) (S := S) p data_phase
  obtain ⟨T, final⟩ := exec_final_callState (s := { s with tagValid := false, verdict := .none }) (S := S')
  have final (r : Dir) (out : List Byte) := runAll_singleton_callState (final r out) (Nat.zero_le _)
  refine ⟨T, c, length, ?_, ?_⟩
  · have run := runAll_append (runAll_append (ad .sealing) (data []).1) (final .sealing last)
    simpa [callToFinal] using runAll_cons_callState (init .sealing) (Nat.zero_le _) run
  · have run := runAll_append (runAll_append (ad .opening) (data []).2) (final .opening last')
    simpa [callToFinal] using runAll_cons_callState (init .opening) (Nat.zero_le _) run

/-- The seal call ends with RDTAG, which puts out the tag; the open call with VERIFY, which compares it. -/
theorem runAll_sealCall_openCall :
    ∃ T c, c.length = p.length ∧
      runAll (sealCall s.var nonce p a) s =
        .next (callState { s with tagValid := true, verdict := .none } .sealing T .finalized (tagBytes T),
          c ++ tagBytes T) ∧
      ∀ tag, runAll (openCall s.var nonce c tag a) s =
        .next (callState { s with tagValid := false, verdict := if tagBytes T = tag.toList then .pass else .fail }
          .opening Sponge.zero .finalized [], p) := by
  obtain ⟨T, c, length, sealing, opening⟩ := runAll_callToFinal idle keyed nonce p a
  refine ⟨T, c, length, ?_, fun tag => ?_⟩
  · rw [sealCall_eq]
    exact runAll_append sealing (runAll_singleton_callState (exec_rdtag_callState rfl []) (tagBytes_length T).le)
  · rw [openCall_eq, ← List.append_nil p]
    exact runAll_append opening (runAll_singleton_callState (exec_verify_callState tag rfl []) (Nat.zero_le _))

end Calls

/-! ### `Seal` and `Open` (R183, R184) -/

theorem toList_blockOf {b : List Byte} (h : b.length = 16) : (blockOf b).toList = b := by
  simpa [firstBytes, h, List.take_of_length_le] using firstBytes_blockOf b h.le

/-- R184: the last sixteen bytes of what is opened are the received tag. -/
theorem openExpansion_append (v : Variant) (key nonce : Block) (c a : List Byte) {tag : List Byte}
    (h : tag.length = 16) :
    openExpansion v key nonce (c ++ tag) a = .keyld v key :: openCall v nonce c (blockOf tag) a := by
  simp [openExpansion, h]

section Messages

variable {v : Variant} {key nonce : Block} {c p a tag out : List Byte} {u : State}

/-- KEYLD puts out no byte (R120): the bytes of the expansion are those of the call after it. -/
theorem runAll_keyld {is : List Instr} (call : runAll is (resultOf (.keyld v key) State.reset) = .next (u, out)) :
    runAll (.keyld v key :: is) State.reset = .next (u, out) :=
  runAll_cons (exec_keyld_executes v key (.inl rfl)) call

theorem sealMessage_of_run
    (call : runAll (sealCall v nonce p a) (resultOf (.keyld v key) State.reset) = .next (u, out))
    (completed : u.phase = .finalized ∧ u.tagValid = true) : sealMessage v key nonce p a = some out := by
  rw [sealMessage, sealExpansion, runAll_keyld call]
  exact if_pos completed

theorem openMessage_of_run (tag_length : tag.length = 16)
    (call : runAll (openCall v nonce c (blockOf tag) a) (resultOf (.keyld v key) State.reset) = .next (u, out)) :
    openMessage v key nonce (c ++ tag) a = if u.verdict = .pass then some out else none := by
  rw [openMessage, if_neg (by simp [tag_length]), openExpansion_append v key nonce c a tag_length, runAll_keyld call]

end Messages

/-- R186 and R187 in one: `Seal` answers a ciphertext and a tag, and `Open` of that ciphertext with sixteen bytes after it
answers the plaintext exactly when they are the tag. -/
theorem openMessage_of_sealMessage (v : Variant) (key nonce : Block) (p a : List Byte) :
    ∃ c tag, c.length = p.length ∧ tag.length = 16 ∧ sealMessage v key nonce p a = some (c ++ tag) ∧
      ∀ tag', tag'.length = 16 →
        openMessage v key nonce (c ++ tag') a = if tag = tag' then some p else none := by
  obtain ⟨T, c, length, sealing, opening⟩ :=
    runAll_sealCall_openCall (s := resultOf (.keyld v key) State.reset) (.inl rfl) rfl nonce p a
  refine ⟨c, tagBytes T, length, tagBytes_length T, sealMessage_of_run sealing ⟨rfl, rfl⟩, fun tag' length' => ?_⟩
  rw [openMessage_of_run (v := v) length' (opening (blockOf tag')), toList_blockOf length']
  by_cases same_tag : tagBytes T = tag' <;> simp [same_tag, callState]

/-- Settles O55: the open call computes the tag that sealing gave (`openMessage_of_sealMessage`), and VERIFY finds another
one unequal to it. -/
theorem wrongTagIsRejected : Obligations.WrongTagIsRejected := by
  intro v key nonce p a c tag tag' sealed tag_length tag'_length other_tag
  obtain ⟨c₀, tag₀, -, tag₀_length, sealed₀, opened⟩ := openMessage_of_sealMessage v key nonce p a
  have same : c₀ ++ tag₀ = c ++ tag := Option.some.inj (sealed₀.symm.trans sealed)
  obtain ⟨rfl, rfl⟩ := List.append_inj' same (tag₀_length.trans tag_length.symm)
  rw [opened tag' tag'_length, if_neg other_tag.symm]

end Sys2Proof.Proofs

/-! PROOF. The laws of a whole call (45_sequences.md R180, R184, R186, R191), from the runs of a seal call and of the open
call of its ciphertext. Those runs speak of a ciphertext that sealing gave; every string is one, because sealing keeps the
length and gives different plaintexts different ciphertexts. -/

namespace Sys2Proof.Proofs

open Sys2Proof Sys2Proof.Machine

/-- Settles O56: such a ciphertext is refused before any command runs (R191). -/
theorem shortCiphertextFails : Obligations.ShortCiphertextFails := fun _ _ _ _ _ short => if_pos short

/-- Settles O54: the open call of a sealed ciphertext with the tag that sealing gave (`openMessage_of_sealMessage`). -/
theorem openOfSealIsThePlaintext : Obligations.OpenOfSealIsThePlaintext := by
  intro v key nonce p a
  obtain ⟨c, tag, length, tag_length, sealed, opened⟩ := openMessage_of_sealMessage v key nonce p a
  exact ⟨c ++ tag, sealed, by rw [List.length_append, length, tag_length], by rw [opened tag tag_length, if_pos rfl]⟩

/-- There are only finitely many strings of one length, so a map of them that merges none reaches them all. -/
theorem surjective_of_injective_of_length {f : List Byte → List Byte} (injective : Function.Injective f)
    (length : ∀ m, (f m).length = m.length) : Function.Surjective f := fun m => by
  have same_length : Set.MapsTo f {l | l.length = m.length} {l | l.length = m.length} := fun l h => (length l).trans h
  have onto := (((List.finite_length_eq Byte m.length).injOn_iff_bijOn_of_mapsTo same_length).mp injective.injOn).surjOn
  obtain ⟨l, -, image⟩ := onto (rfl : m.length = m.length)
  exact ⟨l, image⟩

section Calls

variable {s : State} (idle : Claims.Idle s) (keyed : s.keyed = true) (nonce : Block)
include idle keyed

/-- R184: an open call of any ciphertext runs to its VERIFY. The ciphertext is the sealing of some plaintext, since two
plaintexts of one ciphertext would both be what its open call puts out. -/
theorem runAll_openCall (c a : List Byte) :
    ∃ T p, p.length = c.length ∧
      ∀ tag, runAll (openCall s.var nonce c tag a) s =
        .next (callState { s with tagValid := false, verdict := if tagBytes T = tag.toList then .pass else .fail }
          .opening Sponge.zero .finalized [], p) := by
  choose tagState sealing length _ opening using fun p => runAll_sealCall_openCall idle keyed nonce p a
  have injective : Function.Injective sealing := fun p q same => by
    have run := (opening p zeroBlock).symm.trans (same ▸ opening q zeroBlock)
    injection run with run
    exact congrArg Prod.snd run
  obtain ⟨p, rfl⟩ := surjective_of_injective_of_length injective length c
  exact ⟨tagState p, p, (length p).symm, opening p⟩

end Calls

/-- After its RDTAG a seal call has completed (R193). -/
theorem callComplete_sealing {s : State} {S : Sponge} {out : List Byte} (tag : s.tagValid = true)
    (length : out.length = 16) : (callState s .sealing S .finalized out).callComplete = true :=
  decide_eq_true ⟨rfl, tag, length⟩

/-- After its VERIFY, whatever the verdict, an open call has completed (R193). -/
theorem callComplete_opening {s : State} {S : Sponge} {out : List Byte} (verdict : s.verdict ≠ .none) :
    (callState s .opening S .finalized out).callComplete = true :=
  decide_eq_true ⟨rfl, verdict⟩

/-- Settles O53: a seal call runs to its RDTAG (`runAll_sealCall_openCall`) and an open call of any ciphertext to its VERIFY
(`runAll_openCall`); neither writes `K` or `ERR`. -/
theorem wellFormedCallsCompleteWithoutFault : Obligations.WellFormedCallsCompleteWithoutFault := by
  intro s nonce m a tag idle keyed
  constructor
  · obtain ⟨T, c, length, run, -⟩ := runAll_sealCall_openCall idle keyed nonce m a
    refine ⟨_, _, run, callComplete_sealing rfl (tagBytes_length T), rfl, rfl, rfl, ?_⟩
    rw [List.length_append, length, tagBytes_length]
  · obtain ⟨T, p, length, run⟩ := runAll_openCall idle keyed nonce m a
    have verdict_given : (if tagBytes T = tag.toList then Verdict.pass else .fail) ≠ .none := by
      split <;> decide
    exact ⟨_, _, run tag, callComplete_opening verdict_given, rfl, rfl, rfl, length⟩

end Sys2Proof.Proofs

/-! PROOF. The statements of 60_exceptions.md: the order of the checks and fault entry (R203, R210), the causes each command
can record (R202), and phase FAULT, which only reset leaves (R212). -/

namespace Sys2Proof.Proofs

open Sys2Proof Sys2Proof.Machine

/-! ### Phase FAULT (R212) -/

theorem exec_in_fault {s : State} (fault : s.phase = .fault) (i : Instr) : exec i s = .next s := by
  rw [exec_eq_runCommand, s.runCommand_in_fault _ _ fault]

/-- R212: the port's command, decoded or illegal, is taken and nothing else happens. -/
theorem step_present_in_fault {s : State} (fault : s.phase = .fault) (c : Command) : step (s.present c) = .next s := by
  cases decoded : decode c with
  | ok i => rw [step_present_decoded s decoded, exec_in_fault fault]
  | error e => rw [step_present_illegal s decoded, State.illegalCommand, if_pos fault]

/-- R212: waiting and taking a command keep FAULT, and neither a fault nor an execution begins there. -/
theorem reset_of_step_leaves_fault {s t : State} (fault : s.phase = .fault) (hstep : step s = .next t)
    (left : t.phase ≠ .fault) : ∃ rest, s.port = .rst :: rest := by
  obtain ⟨-, rfl⟩ | ⟨rest, hp, -⟩ | ⟨c, rest, -, ⟨-, rfl⟩ | ⟨not_fault, -⟩ | ⟨not_fault, -⟩⟩ := step_outcomes hstep
  · exact absurd fault left
  · exact ⟨rest, hp⟩
  · exact absurd fault left
  · exact absurd fault not_fault
  · exact absurd fault not_fault

/-- Settles O8: a command in FAULT is taken without effect (`step_present_in_fault`), and the one other event is reset. -/
theorem faultStateIsLeftOnlyByReset : Obligations.FaultStateIsLeftOnlyByReset := fun s fault =>
  ⟨step_present_in_fault fault, fun rest hp => (resetEventClearsEverything s rest hp).1,
    fun _ => reset_of_step_leaves_fault fault⟩

/-! ### The first failing check (R203, R210) -/

theorem step_present_illegal_faults {s : State} {c : Command} {e : DecodeError} (not_fault : s.phase ≠ .fault)
    (illegal : decode c = .error e) : step (s.present c) = .next (Claims.faulted .illegalCmd s) := by
  rw [step_present_illegal s illegal, State.illegalCommand, if_neg not_fault, raise_eq_faulted]

theorem resultOf_phase_ne_fault {i : Instr} {s : State} (executes : commandFault i s = none) :
    (resultOf i s).phase ≠ .fault :=
  resultOf_phase executes ▸ phaseAfter_ne_fault i

/-- R210: of the fields of `ST`, fault entry leaves two that are not zero, `PHASE` and `ERR`. -/
theorem st_faulted (x : Cause) (s : State) : (Claims.faulted x s).st = 7#32 ||| BitVec.ofNat 32 (x.code <<< 9) := by
  simp [State.st, Claims.faulted, Phase.code, varCode, dirCode, Verdict.code, BitVec.ofNat_or]

/-- Settles O36: the word decides first, and for a decoded command the table (`exec_faults`, `exec_executes`, which rest on
`firstFailure_checksOf`). -/
theorem firstFailingCheckDecidesTheFault : Obligations.FirstFailingCheckDecidesTheFault := by
  intro s c not_fault
  refine ⟨?illegal, fun i decoded => ⟨?faults, ?executes⟩, fun x => st_faulted x s⟩
  case illegal =>
    rintro ⟨e, illegal⟩
    exact step_present_illegal_faults not_fault illegal
  case faults =>
    intro x faults
    rw [step_present_decoded s decoded, exec_faults not_fault faults]
  case executes =>
    intro executes
    rw [step_present_decoded s decoded, exec_executes not_fault executes]
    exact ⟨_, rfl, resultOf_phase_ne_fault executes, resultOf_err i s⟩

/-! ### The causes of each command (R202) -/

theorem badPhase_mem_possibleFaults (i : Instr) : .badPhase ∈ possibleFaults i := by
  cases i <;> exact List.mem_cons_self

/-- Opcode 2 is INIT's alone. -/
theorem noKey_mem_possibleFaults {i : Instr} (init : i.opc = 0x2) : .noKey ∈ possibleFaults i := by
  cases i with
  | init => simp [possibleFaults]
  | _ => cases init

/-- A field check has one cause, the one the table lists for the command. -/
theorem fieldFault_mem_possibleFaults {i : Instr} {s : State} {x : Cause} (field : fieldFault i s = some x) :
    x ∈ possibleFaults i := by
  cases i with
  | adl | encl | decl | ldsw | rdsw | perm =>
    simp only [fieldFault, Option.ite_none_right_eq_some, Option.some.injEq] at field
    obtain ⟨-, rfl⟩ := field
    simp [possibleFaults]
  | _ => cases field

/-- R202 against R203: each check that can decide a command's fault has a cause of the command's list. -/
theorem commandFault_mem_possibleFaults {i : Instr} {s : State} {x : Cause} (faults : commandFault i s = some x) :
    x ∈ possibleFaults i := by
  unfold commandFault at faults
  split at faults
  · cases faults
    exact badPhase_mem_possibleFaults i
  · split at faults
    next no_key =>
      obtain ⟨init, -⟩ := no_key
      cases faults
      exact noKey_mem_possibleFaults init
    · exact fieldFault_mem_possibleFaults faults

/-- Settles O48: of a command's outcomes only the fault is in FAULT, and it records the failed check's cause
(`commandFault_mem_possibleFaults`). -/
theorem commandsRaiseOnlyTheirFaults : Obligations.CommandsRaiseOnlyTheirFaults := by
  intro i s t not_fault hexec faulted
  obtain ⟨fault, -⟩ | ⟨-, x, faults, rfl⟩ | ⟨-, executes, rfl⟩ := exec_outcomes hexec
  · exact absurd fault not_fault
  · exact commandFault_mem_possibleFaults faults
  · exact absurd faulted (resultOf_phase_ne_fault executes)

end Sys2Proof.Proofs

/-! PROOF. The statements of 70_reset_and_hazards.md: the fault a presented word raises reads no secret (R250). -/

namespace Sys2Proof.Proofs

open Sys2Proof Sys2Proof.Machine

/-! ### What the fault of a command reads (R36, R250) -/

/-- Of the state, R36's conditions read `PHASE`, `DIR`, `TAGVALID`, `KEYED` and `VAR`. -/
theorem commandFault_eq_of_flags_eq (i : Instr) {s s' : State} (phase : s.phase = s'.phase) (dir : s.dir = s'.dir)
    (tag : s.tagValid = s'.tagValid) (keyed : s.keyed = s'.keyed) (var : s.var = s'.var) :
    commandFault i s = commandFault i s' := by
  have same_call : callConditions i s = callConditions i s' := by
    cases i <;> simp [dir, tag]
  have same_field : fieldFault i s = fieldFault i s' := by
    cases i <;> simp only [fieldFault, phase, var]
  simp only [commandFault, phase, keyed, same_call, same_field]

/-- Of the command, they do not read the operand. -/
theorem commandFault_withOperand (i : Instr) (s : State) (d : Block) :
    commandFault (withOperand i d) s = commandFault i s := by
  rw [← firstFailure_checksOf, checksOf_withOperand, firstFailure_checksOf]

/-! ### A fault is seen in the state after the step (R210) -/

theorem faulted_inj {x y : Cause} {s : State} : Claims.faulted x s = Claims.faulted y s ↔ x = y :=
  ⟨congrArg State.err, congrArg (Claims.faulted · s)⟩

/-- Fault entry with a cause is the outcome of no command but one whose fault has that cause. -/
theorem exec_eq_faulted_iff {i : Instr} {s : State} {x : Cause} (not_fault : s.phase ≠ .fault) :
    exec i s = .next (Claims.faulted x s) ↔ commandFault i s = some x := by
  refine ⟨fun faulted => ?_, exec_faults not_fault⟩
  obtain ⟨fault, -⟩ | ⟨-, y, faults, same⟩ | ⟨-, executes, same⟩ := exec_outcomes faulted
  · exact absurd fault not_fault
  · rw [faults, faulted_inj.mp same]
  · exact absurd (congrArg State.phase same).symm (resultOf_phase_ne_fault executes)

theorem step_present_illegal_eq_faulted_iff {s : State} {c : Command} {e : DecodeError} {x : Cause}
    (not_fault : s.phase ≠ .fault) (illegal : decode c = .error e) :
    step (s.present c) = .next (Claims.faulted x s) ↔ .illegalCmd = x := by
  rw [step_present_illegal_faults not_fault illegal, Host.Outcome.next.injEq, faulted_inj]

/-- Settles O47: the operand changes neither whether the word is illegal nor the command's fault (`decode_operand`,
`commandFault_withOperand`), and the states agree on what the fault reads (`commandFault_eq_of_flags_eq`). -/
theorem faultsDependOnNoSecret : Obligations.FaultsDependOnNoSecret := by
  intro s s' cw d d' x not_fault phase dir tag keyed var
  have not_fault' : s'.phase ≠ .fault := phase ▸ not_fault
  have other := decode_operand cw d d'
  cases decoded : decode ⟨cw, d⟩ with
  | error e =>
    rw [decoded] at other
    rw [step_present_illegal_eq_faulted_iff not_fault decoded, step_present_illegal_eq_faulted_iff not_fault' other]
  | ok i =>
    rw [decoded] at other
    have same_fault : commandFault i s = commandFault (withOperand i d') s' :=
      (commandFault_eq_of_flags_eq i phase dir tag keyed var).trans (commandFault_withOperand i s' d').symm
    rw [step_present_decoded s decoded, step_present_decoded s' other, exec_eq_faulted_iff not_fault,
      exec_eq_faulted_iff not_fault', same_fault]

end Sys2Proof.Proofs
